-- ==== Sys2Proof/Word.lean ====
section
/-!
DEFINITION. The word type of the NVS record encoder: the byte (00_scope.md R13).
-/

namespace Sys2Proof

/-- A byte is 8 bits, bit 0 the least significant (R13). -/
abbrev Byte := BitVec 8

end Sys2Proof
end

