-- ==== Sys2Proof/Syntax.lean ====
section
/-!
DEFINITION. The operations of the NVS record encoder: one constructor per row of the type-tag map (00_scope.md R3,
30_encoding.md R85). The operands of an operation are the request ports (30_encoding.md R80), which are registers of
the machine's state, so a constructor has no argument (DEDUCED, log entry 4). The nine operations are also the nine
value types `t` of the rules ("one per supported value type", R3).
-/

namespace Sys2Proof

/-- The nine operations, one per supported value type (R3). -/
inductive Instr where
  /-- `ENC.U8` (R142) -/
  | encU8
  /-- `ENC.I8` (R143) -/
  | encI8
  /-- `ENC.U16` (R144) -/
  | encU16
  /-- `ENC.I16` (R145) -/
  | encI16
  /-- `ENC.U32` (R146) -/
  | encU32
  /-- `ENC.I32` (R147) -/
  | encI32
  /-- `ENC.U64` (R148) -/
  | encU64
  /-- `ENC.I64` (R149) -/
  | encI64
  /-- `ENC.STR` (R160) -/
  | encStr
  deriving DecidableEq, Repr

/-- The supported types, in the order of the table of R85. -/
def Instr.all : List Instr :=
  [.encU8, .encI8, .encU16, .encI16, .encU32, .encI32, .encU64, .encI64, .encStr]

end Sys2Proof
end

