-- ==== Sys2Proof/Config.lean ====
section
/-!
DEFINITION. The implementation parameters (00_scope.md R8, 10_state.md R39): what is fixed for the machine and never
changes while it exists, and the free values. `TAG_CODE` and `crc32` are parameters of the spec, so they are fields of `Config`, and the
shared operations and the step relation `stepAt` take a `Config`; the machine itself runs at `Config.hardware` (Machine/Parameters.lean).
-/

namespace Sys2Proof

/-- An instance of the encoder: the registry's constants and the checksum function (R8, R39). -/
structure Config where
  /-- `BLOCK_SIZE`; an instance with a value other than 32 is refused (R9, log entry 3). -/
  blockSize : Nat
  /-- `TAG_CODE(t)`, the on-disk code of type `t` (R10, log entry 1). -/
  tagCode : Instr → Byte
  /-- `crc32`, a total function from a byte sequence to exactly 4 bytes, in the order they are stored (R12, R53). -/
  crc32 : List Byte → Vector Byte 4

/-- FREE VALUES: what each request port shows until the host has written it, which R40 leaves unspecified. They have no
body, so nothing can be proved of what they are (log entry 9). -/
opaque Config.unwrittenNs : BitVec 8
opaque Config.unwrittenType : BitVec 8
opaque Config.unwrittenKlen : BitVec 8
opaque Config.unwrittenVkind : BitVec 1
opaque Config.unwrittenVnum : BitVec 64
opaque Config.unwrittenVlen : BitVec 16

/-- `BLOCK_SIZE`: bytes per block (R9). -/
@[simp] abbrev blockBytes : Nat := 32
/-- `KEY_MAX`: the longest key in bytes, terminator excluded (R8). -/
@[simp] abbrev keyMax : Nat := 15
/-- `KEY_FIELD`: bytes of the key field, and of the buffer KEY (R8, R25). -/
@[simp] abbrev keyFieldSize : Nat := 16
/-- `DATA_FIELD`: bytes of the header's data field (R8). -/
@[simp] abbrev dataFieldSize : Nat := 8
/-- `PAYLOAD_MAX`: the longest payload in bytes, terminator included (R8). -/
@[simp] abbrev payloadMax : Nat := 4000
/-- `DATA_MAX`: bytes of the buffer DATA (R8, R31). -/
@[simp] abbrev dataMax : Nat := 4000
/-- Bytes of the buffer VBUF (R29). -/
@[simp] abbrev vbufSize : Nat := 3999
/-- `SPAN_MAX`: the largest span (R8, R183). -/
@[simp] abbrev spanMax : Nat := 126
/-- `CHUNK_NONE`: the chunk-index byte of every entry (R8, R194). -/
@[simp] abbrev chunkNone : Byte := 0xFF#8
/-- `PAD_DATA`: the fill byte of the data field and the data buffer (R8). -/
@[simp] abbrev padData : Byte := 0xFF#8
/-- `PAD_KEY`: the fill byte of the key field, and the terminator's value (R8, R131). -/
@[simp] abbrev padKey : Byte := 0x00#8

end Sys2Proof
end

