-- ==== Sys2Proof/WellFormed.lean ====
section
/-!
DEFINITION. What makes a type-tag map usable and an operation well formed under it (00_scope.md R9, R10). The checks
of the textual lines and of the host's moves stand beside their types (Machine/Lines.lean, Machine/State.lean).
-/

namespace Sys2Proof

/-- An operation is well formed under a type-tag map when no other supported type has its code, so that the code
tells it apart ("pairwise distinct", R10). -/
def Instr.wellFormed (tagCode : Instr → Byte) (i : Instr) : Bool :=
  Instr.all.all fun j => j == i || tagCode j != tagCode i

/-- A usable instance: block size 32 (R9) and nine pairwise distinct codes (R10). -/
def Config.wellFormed (c : Config) : Bool :=
  c.blockSize == blockBytes && Instr.all.all (Instr.wellFormed c.tagCode)

end Sys2Proof
end

