-- ==== Sys2Proof/Decode.lean ====
section
/-!
DEFINITION. The type-tag map (30_encoding.md R85): which operation a value of `REQ_TYPE` selects, and back. Decoding
is total: the empty input and the 247 illegal codes are rejected by name (R87).
-/

namespace Sys2Proof

/-- The default `TAG_CODE` table (00_scope.md R10; PRESUMED by the spec itself, log entry 1). -/
def defaultTagCode : Instr → Byte
  | .encU8 => 0x01#8
  | .encI8 => 0x11#8
  | .encU16 => 0x02#8
  | .encI16 => 0x12#8
  | .encU32 => 0x04#8
  | .encI32 => 0x14#8
  | .encU64 => 0x08#8
  | .encI64 => 0x18#8
  | .encStr => 0x21#8

/-- The supported type whose code equals `b` in all 8 bits, under any type-tag map (R85). -/
def selectType (tagCode : Instr → Byte) (b : Byte) : Option Instr :=
  Instr.all.find? fun i => tagCode i == b

/-- Why bytes select no operation. -/
inductive DecodeError where
  /-- There is no type byte. -/
  | noByte
  /-- The type byte is none of the nine codes (R87). -/
  | unsupportedType (code : Byte)
  deriving DecidableEq, Repr

/-- The outcome of decoding: an operation with the bytes after its tag, or a rejection by name. -/
inductive Decoded where
  | ok (i : Instr) (rest : List Byte)
  | rejected (e : DecodeError)
  deriving DecidableEq, Repr

/-- Reads the operation that the first byte selects under a type-tag map (R85). -/
def decodeWith (tagCode : Instr → Byte) : List Byte → Decoded
  | [] => .rejected .noByte
  | b :: rest =>
    match selectType tagCode b with
    | some i => .ok i rest
    | none => .rejected (.unsupportedType b)

/-- Reads an operation under the default map. -/
def decode (bytes : List Byte) : Decoded :=
  decodeWith defaultTagCode bytes

/-- The bytes of an operation under a type-tag map: its type byte alone, since every operand is a port (R80, R85). -/
def encodeWith (tagCode : Instr → Byte) (i : Instr) : List Byte :=
  [tagCode i]

/-- The bytes of an operation under the default map. -/
def encode (i : Instr) : List Byte :=
  encodeWith defaultTagCode i

/-- The operation the decoder reads from a table row's word `w`. The table gives every row 8 bits, so a word that
needs more is no type byte (log entry 24). -/
def decodeTableWord (_nbits w : Nat) : Option Instr :=
  if w < 256 then
    match decode [BitVec.ofNat 8 w] with
    | .ok i _ => some i
    | .rejected _ => none
  else none

end Sys2Proof
end

