-- ==== Sys2Proof/Machine/State.lean ====
section
/-!
DEFINITION. The machine's state as plain data (10_state.md), its reset value (R40, R250) and the reasons a step can
stop. INVENTORY.md lists every field with its rule.
-/

namespace Sys2Proof.Machine

/-- A byte buffer: the bytes that hold a value, each with its offset, offsets strictly rising. An offset that is not
listed holds no value (20_memory.md R50, 10_state.md R34, R40; log entry 6). -/
abbrev Buffer := List Host.Cell

/-- The four buffers, each an address space of its own from offset 0 (20_memory.md R50). -/
structure Memory where
  /-- `KEY`, 16 bytes, written by the host (R25). -/
  key : Buffer
  /-- `VBUF`, 3999 bytes, written by the host (R29). -/
  vbuf : Buffer
  /-- `HDR`, 32 bytes, written by the block (R30). -/
  hdr : Buffer
  /-- `DATA`, 4000 bytes, written by the block (R31). -/
  data : Buffer
  deriving DecidableEq, Repr

/-- Which request ports the host has ever written: the others show a free value (R40, 70_reset_and_hazards.md R252; log
entries 5 and 9). -/
structure PortsWritten where
  ns : Bool
  type : Bool
  klen : Bool
  vkind : Bool
  vnum : Bool
  vlen : Bool
  deriving DecidableEq, Repr

/-- The Request: the values of the request ports and input buffers at START (10_state.md R21, 30_encoding.md R80). -/
structure Request where
  ns : BitVec 8
  type : BitVec 8
  klen : BitVec 8
  key : Buffer
  vkind : BitVec 1
  vnum : BitVec 64
  vlen : BitVec 16
  vbuf : Buffer
  deriving DecidableEq, Repr

/-- The working registers (10_state.md R35). `l` and `pcrc` exist for a string only. -/
structure Working where
  /-- `KF`, 16 bytes: the key field (41_key_serializer.md R131). -/
  kf : List Byte
  /-- `DF`, 8 bytes: the data field (42_numeric_encoder.md R140, 43_string_chunker.md R166). -/
  df : List Byte
  /-- `L`: the payload length of a string (43_string_chunker.md R161). -/
  l : Option (BitVec 16)
  /-- `SPAN`: the block count of the entry (44_block_counter.md R180). -/
  span : BitVec 8
  /-- `DLEN`: the data-buffer length (44_block_counter.md R182). -/
  dlen : BitVec 16
  /-- `BLK`: the index of the block produced last (44_block_counter.md R184). -/
  blk : BitVec 8
  /-- `OFF`: the byte offset of block `BLK` in the entry (44_block_counter.md R184). -/
  off : BitVec 16
  /-- `PCRC`, 4 bytes: the payload checksum of a string (43_string_chunker.md R165). -/
  pcrc : Option (List Byte)
  /-- `SCOPE`, 28 bytes: the header bytes under the header checksum (46_crc_scope.md R210). -/
  scope : List Byte
  /-- `HCRC`, 4 bytes: the header checksum (46_crc_scope.md R212). -/
  hcrc : List Byte
  deriving DecidableEq, Repr

/-- What one read of the host returned, at the width of the port or byte read. -/
inductive HostValue where
  | bit (v : BitVec 1)
  | byte (v : BitVec 8)
  | half (v : BitVec 16)
  | long (v : BitVec 64)
  deriving DecidableEq, Repr

/-- The host's moves (40_operation.md R110, R118). -/
inductive HostMove where
  | writeNs (v : BitVec 8)
  | writeType (v : BitVec 8)
  | writeKlen (v : BitVec 8)
  | writeVkind (v : BitVec 1)
  | writeVnum (v : BitVec 64)
  | writeVlen (v : BitVec 16)
  /-- Write one byte of KEY. -/
  | writeKey (offset : Nat) (v : Byte)
  /-- Write one byte of VBUF. -/
  | writeVbuf (offset : Nat) (v : Byte)
  | readNs
  | readType
  | readKlen
  | readVkind
  | readVnum
  | readVlen
  | readKey (offset : Nat)
  | readVbuf (offset : Nat)
  | readStatus
  | readHdr (offset : Nat)
  | readData (offset : Nat)
  | readSpan
  | readDlen
  /-- START (R116). -/
  | start
  /-- RESET (70_reset_and_hazards.md R250). -/
  | reset
  deriving DecidableEq, Repr

/-- A host's move is well formed when the offset it names exists (20_memory.md R50). -/
def HostMove.wellFormed : HostMove → Bool
  | .writeKey a _ => decide (a < keyFieldSize)
  | .readKey a => decide (a < keyFieldSize)
  | .writeVbuf a _ => decide (a < vbufSize)
  | .readVbuf a => decide (a < vbufSize)
  | .readHdr a => decide (a < blockBytes)
  | .readData a => decide (a < dataMax)
  | _ => true

/-- Whose turn it is: the host makes a move, or the block takes its step if it has one (log entry 7). -/
inductive Turn where
  | host (m : HostMove)
  | block
  deriving DecidableEq, Repr

/-- The machine's state. No field holds a function. -/
structure State where
  /-- `REQ_NS` (R22). -/
  reqNs : BitVec 8
  /-- `REQ_TYPE` (R23). -/
  reqType : BitVec 8
  /-- `REQ_KLEN` (R24). -/
  reqKlen : BitVec 8
  /-- `REQ_VKIND`: 0 numeric, 1 text (R26). -/
  reqVkind : BitVec 1
  /-- `REQ_VNUM` (R27). -/
  reqVnum : BitVec 64
  /-- `REQ_VLEN` (R28). -/
  reqVlen : BitVec 16
  /-- Which request ports the host has written (R252). -/
  written : PortsWritten
  /-- The four buffers (R50). -/
  mem : Memory
  /-- `RSP_SPAN`, or no value (R32, R34). -/
  rspSpan : Option (BitVec 8)
  /-- `RSP_DLEN`, or no value (R32, R34). -/
  rspDlen : Option (BitVec 16)
  /-- The byte sequences the operation that ended last handed to the checksum function, in order (R50, R64; log entry 13). -/
  crcStream : List (List Byte)
  /-- `STATUS`: BUSY bit 0, DONE bit 1, ERR bits 4:2, bits 7:5 reserved (R33). -/
  status : BitVec 8
  /-- The Request taken at START, while an operation is in progress (R116, R117; log entry 8). -/
  taken : Option Request
  /-- The working registers; no value outside an operation (R35, R40; log entry 12). -/
  work : Option Working
  /-- The model's own: the turns still to come, oldest first (log entry 7). -/
  pending : List Turn
  /-- The model's own: what the host's last read returned (log entry 11). -/
  readout : Option HostValue
  deriving DecidableEq, Repr

/-- Why the machine stops with a fault. Each is a read of what holds no value, or a move that has no meaning in the
spec; all are safe (the model stops). The four validation errors are none of these: they are next states. -/
inductive Fault where
  /-- A host read of HDR, DATA, RSP_SPAN or RSP_DLEN where it holds no value (R31, R34, R254). Raised by the host's reads. Safe. -/
  | responseHoldsNoValue
  /-- A read of a byte of KEY or VBUF that holds no value, because the host has never written it (R40, R252, U7). Raised
  by an operation's serializers and by a host read of the buffers. Safe (log entry 6). -/
  | requestByteHoldsNoValue
  /-- A host write of a request port, KEY or VBUF while BUSY, which has no meaning in the spec (20_memory.md R62).
  Raised by the host's writes. Safe (log entry 10). -/
  | hostWriteWhileBusy
  /-- A host access to an offset outside the buffer (20_memory.md R50). Raised by the host's reads and writes. Safe (log entry 22). -/
  | noSuchOffset
  /-- An operation without a Request. Raised by an operation in a state that no run reaches. Safe (log entry 19). -/
  | noOperationInProgress
  deriving DecidableEq, Repr

/-- Why the machine gives no meaning. -/
inductive Refusal where
  /-- The instruction has no meaning in this model yet. Raised by exec's arms only; none is left. Safe. -/
  | notModelled (mnemonic : String)
  /-- The instance has a block size other than 32 (00_scope.md R9, 93_implementation_defined.md U11). Raised by the
  shared operation at a Config that is not the hardware's. Safe (log entry 3). -/
  | unsupportedBlockSize
  deriving DecidableEq, Repr

/-- The machine right after power-on reset (10_state.md R40): STATUS 0; the response, the working registers and the
input buffers hold no value; no port has been written. The registers of the six request ports hold 0, a
DESIGN CHOICE (log entry 5): the spec does not reset them. What such a port shows is a free value (log entry 9). -/
def State.reset : State where
  reqNs := 0#8
  reqType := 0#8
  reqKlen := 0#8
  reqVkind := 0#1
  reqVnum := 0#64
  reqVlen := 0#16
  written := ⟨false, false, false, false, false, false⟩
  mem := ⟨[], [], [], []⟩
  rspSpan := none
  rspDlen := none
  crcStream := []
  status := 0#8
  taken := none
  work := none
  pending := []
  readout := none

end Sys2Proof.Machine
end

