-- ==== Sys2Proof/Machine/Checksum.lean ====
section
/-!
DEFINITION. The two instances of the checksum function that the spec defines (20_memory.md R66, R67; log entry 2).
Both return the 32-bit checksum least significant byte first (R53).
-/

namespace Sys2Proof.Machine

/-- One bit of the reflected division by `0xEDB88320` (R66). -/
def crcBit (c : BitVec 32) : BitVec 32 :=
  if c.getLsbD 0 then (c >>> 1) ^^^ 0xEDB88320#32 else c >>> 1

/-- `n` bits. -/
def crcBits : Nat → BitVec 32 → BitVec 32
  | 0, c => c
  | n + 1, c => crcBits n (crcBit c)

/-- One byte of the sequence (R66). -/
def crcByte (c : BitVec 32) (b : Byte) : BitVec 32 :=
  crcBits 8 (c ^^^ b.setWidth 32)

/-- The register after a byte sequence, from an initial value. -/
def crcRegister (init : BitVec 32) (bytes : List Byte) : BitVec 32 :=
  bytes.foldl crcByte init

/-- The four bytes of a 32-bit checksum, least significant first (`le_4`, R66). -/
def crcOutput (r : BitVec 32) : Vector Byte 4 :=
  #v[r.extractLsb' 0 8, r.extractLsb' 8 8, r.extractLsb' 16 8, r.extractLsb' 24 8]

/-- `CRC_A`: initial register all ones, final complement (R66). -/
def crcA (bytes : List Byte) : Vector Byte 4 :=
  crcOutput (crcRegister 0xFFFFFFFF#32 bytes ^^^ 0xFFFFFFFF#32)

/-- `CRC_B`: the same with the register starting at zero (R67). -/
def crcB (bytes : List Byte) : Vector Byte 4 :=
  crcOutput (crcRegister 0x00000000#32 bytes ^^^ 0xFFFFFFFF#32)

/-- `bytes` with bit `b` of byte `i` inverted. -/
def flipBit (bytes : List Byte) (i b : Nat) : List Byte :=
  bytes.modify i fun x => x ^^^ (1#8 <<< b)

/-- `SingleBitDetect(crc32)` (00_scope.md R12): sequences that differ in exactly one bit have different checksums. -/
def SingleBitDetect (crc32 : List Byte → Vector Byte 4) : Prop :=
  ∀ (bytes : List Byte) (i b : Nat), i < bytes.length → b < 8 → crc32 (flipBit bytes i b) ≠ crc32 bytes

end Sys2Proof.Machine
end

