-- ==== Sys2Proof/Machine/Parameters.lean ====
section
/-!
DEFINITION. The parameter values the machine runs at (00_scope.md R8 to R12).
-/

namespace Sys2Proof

/-- `WIDTH(t)`: the byte width of a numeric type, looked up by type; not defined for STR (R11, R86). -/
def Instr.width : Instr → Option Nat
  | .encU8 => some 1
  | .encI8 => some 1
  | .encU16 => some 2
  | .encI16 => some 2
  | .encU32 => some 4
  | .encI32 => some 4
  | .encU64 => some 8
  | .encI64 => some 8
  | .encStr => none

/-- Whether a numeric type is signed; not defined for STR (R85). -/
def Instr.signed : Instr → Option Bool
  | .encU8 => some false
  | .encI8 => some true
  | .encU16 => some false
  | .encI16 => some true
  | .encU32 => some false
  | .encI32 => some true
  | .encU64 => some false
  | .encI64 => some true
  | .encStr => none

/-- The instance the machine runs: block size 32 (R9), the default type-tag map (R10) and the default checksum
`CRC_A` (R12, R66). Log entries 1, 2, 3. -/
def Config.hardware : Config where
  blockSize := 32
  tagCode := defaultTagCode
  crc32 := Machine.crcA

/-- The same instance with the named alternative checksum `CRC_B` (R67). -/
def Config.hardwareB : Config where
  blockSize := 32
  tagCode := defaultTagCode
  crc32 := Machine.crcB

end Sys2Proof
end

