-- ==== Sys2Proof/Machine/Flags.lean ====
section
/-!
DEFINITION. The status register: its fields, the phases, the error codes and every value the block writes to it
(10_state.md R33, R37, 60_exceptions.md R220). The block has no arithmetic flag (R37).
-/

namespace Sys2Proof.Machine

/-- The four validation errors (60_exceptions.md R220). -/
inductive ValidationError where
  | keyTooLong
  | typeMismatch
  | valueTooLarge
  | unsupportedType
  deriving DecidableEq, Repr

/-- The code of an error in `STATUS.ERR`; 0 is no error and 5 to 7 are never produced (R220). -/
def errorCode : ValidationError → BitVec 3
  | .keyTooLong => 1#3
  | .typeMismatch => 2#3
  | .valueTooLarge => 3#3
  | .unsupportedType => 4#3

/-- `STATUS.BUSY`, bit 0 (R33). -/
def statusBusy (st : BitVec 8) : Bool := st.getLsbD 0

/-- `STATUS.DONE`, bit 1 (R33). -/
def statusDone (st : BitVec 8) : Bool := st.getLsbD 1

/-- `STATUS.ERR`, bits 4:2 (R33). -/
def statusErr (st : BitVec 8) : BitVec 3 := st.extractLsb' 2 3

/-- `STATUS[7:5]`, reserved, read as 0 (R33). -/
def statusReserved (st : BitVec 8) : BitVec 3 := st.extractLsb' 5 3

/-- STATUS after RESET (R40). -/
def statusIdle : BitVec 8 := 0#8

/-- STATUS after START: BUSY set, DONE and ERR clear (R37, 40_operation.md R116). -/
def statusStarted : BitVec 8 := 1#8

/-- STATUS at the end of an operation: BUSY clear, DONE set, ERR as given (R37, 40_operation.md R117). -/
def statusEnded (err : BitVec 3) : BitVec 8 := 0#3 ++ err ++ 1#1 ++ 0#1

/-- The phases (R33). -/
inductive Phase where
  | idle
  | busy
  | done
  deriving DecidableEq, Repr

/-- The phase that STATUS shows (R33). -/
def phaseOf (st : BitVec 8) : Phase :=
  if statusBusy st then .busy else if statusDone st then .done else .idle

/-- Whether the last operation ended without error, which is when the response holds a value (R34). -/
def statusSucceeded (st : BitVec 8) : Bool :=
  !statusBusy st && statusDone st && statusErr st == 0#3

/-- The values of STATUS that are ever shown: one of the three phases, ERR 0 unless DONE and at most 4, reserved bits 0 (R33). -/
def statusLegal (st : BitVec 8) : Bool :=
  statusReserved st == 0#3 && !(statusBusy st && statusDone st) &&
    (statusDone st || statusErr st == 0#3) && decide ((statusErr st).toNat ≤ 4)

end Sys2Proof.Machine
end

