-- ==== Sys2Proof/Machine/Ops.lean ====
section
/-!
DEFINITION. The named operations over buffers and state: reading and writing bytes, taking a Request (START), ending an
operation with a validation error (the block's only exceptional entry) or with an Encoded Entry, and RESET.
-/

namespace Sys2Proof.Machine

/-- The byte at an offset, or none where no value is held (20_memory.md R50, R57). -/
def readByte : Buffer → Nat → Option Byte
  | [], _ => none
  | (x, v) :: rest, a => if x = a then some v else readByte rest a

/-- Stores one byte; the offsets stay strictly rising (R57). -/
def writeByte : Buffer → Nat → Byte → Buffer
  | [], a, v => [(a, v)]
  | (x, w) :: rest, a, v =>
    if a < x then (a, v) :: (x, w) :: rest
    else if a = x then (a, v) :: rest
    else (x, w) :: writeByte rest a v

/-- `MemRead`: `n` bytes from offset `a`, or none where one of them holds no value (00_scope.md R16, R252). -/
def readBytes (m : Buffer) : Nat → Nat → Option (List Byte)
  | 0, _ => some []
  | n + 1, a =>
    match readByte m a with
    | none => none
    | some v => (readBytes m n (a + 1)).map (v :: ·)

/-- The buffer that holds exactly the given bytes from offset `a` on. -/
def bytesAt : Nat → List Byte → Buffer
  | _, [] => []
  | a, v :: vs => (a, v) :: bytesAt (a + 1) vs

/-- Offsets rise strictly from `low` on and stay below `size`. -/
def risingFrom (low size : Nat) : Buffer → Bool
  | [] => true
  | (a, _) :: rest => decide (low ≤ a) && decide (a < size) && risingFrom (a + 1) size rest

/-- The canonical form: in each buffer the listed offsets rise strictly and exist (R50; log entry 6). -/
def Memory.wf (m : Memory) : Bool :=
  risingFrom 0 keyFieldSize m.key && risingFrom 0 vbufSize m.vbuf &&
    risingFrom 0 blockBytes m.hdr && risingFrom 0 dataMax m.data

/-- What a request port shows, to the block and to the host: the value last written to it, or a free value while the host
has never written it (10_state.md R40; log entry 9). -/
def portValue {w : Nat} (written : Bool) (held unwritten : BitVec w) : BitVec w :=
  if written then held else unwritten

/-- `REQ_NS` as it is read (R22). -/
def portNs (s : State) : BitVec 8 := portValue s.written.ns s.reqNs Config.unwrittenNs
/-- `REQ_TYPE` as it is read (R23). -/
def portType (s : State) : BitVec 8 := portValue s.written.type s.reqType Config.unwrittenType
/-- `REQ_KLEN` as it is read (R24). -/
def portKlen (s : State) : BitVec 8 := portValue s.written.klen s.reqKlen Config.unwrittenKlen
/-- `REQ_VKIND` as it is read (R26). -/
def portVkind (s : State) : BitVec 1 := portValue s.written.vkind s.reqVkind Config.unwrittenVkind
/-- `REQ_VNUM` as it is read (R27). -/
def portVnum (s : State) : BitVec 64 := portValue s.written.vnum s.reqVnum Config.unwrittenVnum
/-- `REQ_VLEN` as it is read (R28). -/
def portVlen (s : State) : BitVec 16 := portValue s.written.vlen s.reqVlen Config.unwrittenVlen

/-- The Request that the ports and input buffers show now (10_state.md R21). -/
def requestOf (s : State) : Request where
  ns := portNs s
  type := portType s
  klen := portKlen s
  key := s.mem.key
  vkind := portVkind s
  vnum := portVnum s
  vlen := portVlen s
  vbuf := s.mem.vbuf

/-- HDR, DATA, RSP_SPAN and RSP_DLEN lose their values (10_state.md R34), and the CRC stream is empty again. -/
def discardResponse (s : State) : State :=
  { s with
    mem := { s.mem with hdr := [], data := [] }
    rspSpan := none
    rspDlen := none
    crcStream := [] }

/-- START in phase IDLE or DONE: the Request is taken, BUSY set, DONE and ERR cleared, the response discarded
(40_operation.md R116). It is also the return from an error, which lasts until here (60_exceptions.md R231). -/
def startOperation (s : State) : State :=
  { discardResponse s with
    taken := some (requestOf s)
    status := statusStarted
    work := none }

/-- TAKING A VALIDATION ERROR, the end of an operation whose Request is not valid (60_exceptions.md R230,
40_operation.md R117): BUSY clear, DONE set, ERR the code, no response (log entry 20), nothing saved, no handler, the
request ports and input buffers untouched. -/
def takeError (e : ValidationError) (s : State) : State :=
  { discardResponse s with
    taken := none
    status := statusEnded (errorCode e)
    work := none }

/-- What an accepted operation has computed when it ends: its working registers, the header block, the data buffer,
and the byte sequences it handed to the checksum function. -/
structure Run where
  work : Working
  hdr : List Byte
  data : List Byte
  crcCalls : List (List Byte)
  deriving DecidableEq, Repr

/-- The working registers take their values during the operation (10_state.md R35). -/
def loadWorking (w : Working) (s : State) : State :=
  { s with work := some w }

/-- The end of an operation without error (40_operation.md R117): HDR and DATA take the entry, RSP_SPAN and RSP_DLEN
repeat the block count and data-buffer length of the working registers (10_state.md R32), which then hold no value
again (R35); BUSY clear, DONE set, ERR 0. -/
def publish (run : Run) (s : State) : State :=
  { s with
    mem := { s.mem with hdr := bytesAt 0 run.hdr, data := bytesAt 0 run.data }
    rspSpan := s.work.map Working.span
    rspDlen := s.work.map Working.dlen
    crcStream := run.crcCalls
    taken := none
    status := statusEnded 0#3
    work := none }

/-- RESET in any phase (70_reset_and_hazards.md R250): STATUS 0, the response and the working registers lose their
values, an operation in progress is abandoned; the request ports and input buffers are not touched. -/
def resetBlock (s : State) : State :=
  { discardResponse s with
    taken := none
    status := statusIdle
    work := none }

end Sys2Proof.Machine
end

