-- ==== Sys2Proof/Machine/Operands.lean ====
section
/-!
DEFINITION. How each operand of the request format reaches an operation (30_encoding.md R80, R93), with the sequence
operators of the rules (00_scope.md R15).
-/

namespace Sys2Proof.Machine

/-- `rep(b, n)`: `n` copies of byte `b` (R15). -/
def rep (b : Byte) (n : Nat) : List Byte :=
  List.replicate n b

/-- `le_n(v)`: the `n`-byte little-endian sequence of `v` (R15, 20_memory.md R52). -/
def leBytes : Nat → Nat → List Byte
  | 0, _ => []
  | n + 1, v => BitVec.ofNat 8 v :: leBytes n (v / 256)

/-- The natural that a little-endian sequence stands for: what a reader of the field reads back (R54, R141). -/
def leValue : List Byte → Nat
  | [] => 0
  | b :: rest => b.toNat + 256 * leValue rest

/-- `key[0..klen)`, or none where one of these bytes holds no value (10_state.md R25, R252). -/
def keyBytes (r : Request) : Option (List Byte) :=
  readBytes r.key r.klen.toNat 0

/-- `vbuf[0..vlen)`, or none where one of these bytes holds no value (10_state.md R29, R252). -/
def textBytes (r : Request) : Option (List Byte) :=
  readBytes r.vbuf r.vlen.toNat 0

/-- The numeric operand, `unsigned(vnum)` (00_scope.md R14, 10_state.md R27). -/
def numericOperand (r : Request) : Nat :=
  r.vnum.toNat

/-- `InRange(t, v)` for a numeric type of width `w` (42_numeric_encoder.md R141): a premise for claims about the
meaning of a stored value; the block makes no such check (log entry 15). -/
def inRange (i : Instr) (v : BitVec 64) : Prop :=
  match i.width, i.signed with
  | some w, some true => -(2 ^ (8 * w - 1) : Int) ≤ v.toInt ∧ v.toInt < (2 ^ (8 * w - 1) : Int)
  | some w, _ => v.toNat < 2 ^ (8 * w)
  | none, _ => False

end Sys2Proof.Machine
end

