-- ==== Sys2Proof/Machine/CrcScope.lean ====
section
/-!
DEFINITION. The CRC-scope assembler (46_crc_scope.md).
-/

namespace Sys2Proof.Machine

/-- `SCOPE`: header bytes `[0..4)` then `[8..32)` (R210). -/
def crcScope (hdr : List Byte) : List Byte :=
  hdr.take 4 ++ hdr.drop 8

/-- The header with its checksum field `[4..8)` written, the last write of the operation (R213). -/
def storeHeaderCrc (hdr hcrc : List Byte) : List Byte :=
  hdr.take 4 ++ hcrc ++ hdr.drop 8

/-- The header's own checksum field, `HDR[4..8)` (R88). -/
def crcField (hdr : List Byte) : List Byte :=
  (hdr.drop 4).take 4

end Sys2Proof.Machine
end

