-- ==== Sys2Proof/Machine/HeaderPacker.lean ====
section
/-!
DEFINITION. The header packer (45_header_packer.md): the fields of the header block in the order of their offsets
(30_encoding.md R88). A field is a range of the 32 bytes and nothing else is shared (R198).
-/

namespace Sys2Proof.Machine

/-- The packed header (R190): namespace index (R191), type byte (R192), span (R193), chunk index `0xFF` (R194), whatever
stands in bytes 4 to 7 before the checksum is written (R197), key field (R195), data field (R196). -/
def packHeader (ns type span : Byte) (unwritten kf df : List Byte) : List Byte :=
  [ns, type, span, chunkNone] ++ unwritten ++ kf ++ df

end Sys2Proof.Machine
end

