-- ==== Sys2Proof/Machine/KeySerializer.lean ====
section
/-!
DEFINITION. The key serializer: null-terminate, pad to 16 bytes (41_key_serializer.md).
-/

namespace Sys2Proof.Machine

/-- `KeyField`: the key, its terminator, and zero padding; for keys of at most 15 bytes (R131). No byte is inspected
(R134) and the empty key is accepted (R135; log entry 16). -/
def keyField (key : List Byte) : List Byte :=
  key ++ [padKey] ++ rep padKey (keyMax - key.length)

end Sys2Proof.Machine
end

