-- ==== Sys2Proof/Machine/BlockCounter.lean ====
section
/-!
DEFINITION. The block counter and offset calculator (44_block_counter.md). All arithmetic is on naturals (00_scope.md R14).
-/

namespace Sys2Proof.Machine

/-- `ceil(a / b)` (00_scope.md R14). -/
def ceilDiv (a b : Nat) : Nat := (a + b - 1) / b

/-- The span of a string entry with payload length `l` (R180). -/
def stringSpan (l : Nat) : Nat := 1 + ceilDiv l blockBytes

/-- The span of a numeric entry (R181). -/
def numericSpan : Nat := 1

/-- The data-buffer length of an entry of the given span (R182). -/
def dataLength (span : Nat) : Nat := (span - 1) * blockBytes

/-- The byte offset of block `blk` in the contiguous entry, the register `OFF` (R184). -/
def blockOffset (blk : Nat) : Nat := blk * blockBytes

/-- The data block at offset `off` of DATA: the payload bytes that fall into it, then padding (43_string_chunker.md R164). -/
def dataBlock (payload : List Byte) (off : Nat) : List Byte :=
  let part := (payload.drop off).take blockBytes
  part ++ rep padData (blockBytes - part.length)

/-- The data blocks as the block counter produces them, `n` blocks from block `blk` on (R184): block `blk` goes to
offset `OFF - 32` of DATA. -/
def produceBlocks (payload : List Byte) : Nat → Nat → List Byte
  | 0, _ => []
  | n + 1, blk => dataBlock payload (blockOffset blk - blockBytes) ++ produceBlocks payload n (blk + 1)

/-- `Entry(req)`: the contiguous form a caller stores, header first (40_operation.md R115, 70_reset_and_hazards.md R258). -/
def contiguousEntry (hdr data : List Byte) : List Byte := hdr ++ data

/-- Block `blk` of the contiguous entry (20_memory.md R58, R185). -/
def entryBlock (hdr data : List Byte) (blk : Nat) : List Byte :=
  ((contiguousEntry hdr data).drop (blockOffset blk)).take blockBytes

end Sys2Proof.Machine
end

