-- ==== Sys2Proof/Machine/ValueSerializer.lean ====
section
/-!
DEFINITION. The type-dependent value serializer: the data field of a numeric entry (42_numeric_encoder.md) and the
payload, data buffer and data field of a string entry (43_string_chunker.md).
-/

namespace Sys2Proof.Machine

/-- `NumField(w, v)`: the low `w` bytes of the value, least significant first, then `0xFF` (R140, R141; log entry 15). -/
def numField (w v : Nat) : List Byte :=
  leBytes w (v % 2 ^ (8 * w)) ++ rep padData (dataFieldSize - w)

/-- The payload: the text's bytes and exactly one `0x00` (R161). No byte is inspected (R167; log entry 16). -/
def payloadOf (text : List Byte) : List Byte := text ++ [0x00#8]

/-- The data buffer: the payload, then `0xFF` up to a whole number of blocks (R163, 40_operation.md R111). -/
def dataBuffer (payload : List Byte) : List Byte :=
  payload ++ rep padData (dataLength (stringSpan payload.length) - payload.length)

/-- The data field of a string entry: length, two unused bytes `0xFF`, payload checksum (R166, 30_encoding.md R90). -/
def stringField (l : Nat) (pcrc : List Byte) : List Byte :=
  leBytes 2 l ++ [padData, padData] ++ pcrc

/-- What the value serializer hands on: data field, span, data buffer, and for a string its payload with its checksum. -/
structure SerializedValue where
  df : List Byte
  span : Nat
  data : List Byte
  payload : Option (List Byte)
  pcrc : Option (List Byte)
  deriving DecidableEq, Repr

/-- The numeric branch of step 2 (40_operation.md R111, R150). -/
def serializeNumeric (w v : Nat) : SerializedValue where
  df := numField w v
  span := numericSpan
  data := []
  payload := none
  pcrc := none

/-- The string branch of step 2 (40_operation.md R111, R160). -/
def serializeString (crc32 : List Byte → Vector Byte 4) (text : List Byte) : SerializedValue :=
  let payload := payloadOf text
  let pcrc := (crc32 payload).toList
  { df := stringField payload.length pcrc
    span := stringSpan payload.length
    data := dataBuffer payload
    payload := some payload
    pcrc := some pcrc }

/-- Step 2 for type `i`: the numeric path reads `vnum` only, the string path `vlen` and `vbuf` only (40_operation.md
R112, R113); none where a byte of the text holds no value. -/
def serializeValue (c : Config) (i : Instr) (r : Request) : Option SerializedValue :=
  match i.width with
  | some w => some (serializeNumeric w (numericOperand r))
  | none => (textBytes r).map (serializeString c.crc32)

end Sys2Proof.Machine
end

