-- ==== Sys2Proof/Machine/Encode.lean ====
section
/-!
DEFINITION. The encoding function as a whole (40_operation.md R111): validation, steps 1 to 5, and COMPLETE (R117),
the block's one step, shared by the nine operations.
-/

namespace Sys2Proof.Machine

/-- The check of the key's length, first in the order of priority (60_exceptions.md R221, R226; log entry 14). -/
def checkKey (r : Request) : Option ValidationError :=
  if r.klen.toNat > keyMax then some .keyTooLong else none

/-- The checks of kind and length once the type is known (R222, R223). -/
def checkValue (i : Instr) (r : Request) : Option ValidationError :=
  match i.width with
  | some _ => if r.vkind = 1#1 then some .typeMismatch else none
  | none =>
    if r.vkind = 0#1 then some .typeMismatch
    else if r.vlen.toNat + 1 > payloadMax then some .valueTooLarge
    else none

/-- The validation error of a Request for a known type `i`, the first in the order of R226. -/
def validateFor (i : Instr) (r : Request) : Option ValidationError :=
  match checkKey r with
  | some e => some e
  | none => checkValue i r

/-- The validation error of a Request whose type is none of the nine (R224, R226). -/
def validateUnsupported (r : Request) : ValidationError :=
  match checkKey r with
  | some e => e
  | none => .unsupportedType

/-- Steps 3 to 5 (R111): header packing, header checksum over the scope, checksum field; with the working registers and
the checksum calls, payload first (20_memory.md R64, 70_reset_and_hazards.md R256). -/
def assemble (c : Config) (r : Request) (kf : List Byte) (v : SerializedValue) : Run :=
  let span := BitVec.ofNat 8 v.span
  let packed := packHeader r.ns r.type span (rep 0x00#8 4) kf v.df
  let scope := crcScope packed
  let hcrc := (c.crc32 scope).toList
  { work :=
      { kf := kf
        df := v.df
        l := v.payload.map fun p => BitVec.ofNat 16 p.length
        span := span
        dlen := BitVec.ofNat 16 (dataLength v.span)
        blk := BitVec.ofNat 8 (v.span - 1)
        off := BitVec.ofNat 16 (blockOffset (v.span - 1))
        pcrc := v.pcrc
        scope := scope
        hcrc := hcrc }
    hdr := storeHeaderCrc packed hcrc
    data := v.data
    crcCalls := v.payload.toList ++ [scope] }

/-- Steps 1 to 5 on a valid Request of type `i`; none where a byte they read holds no value (R111, R252). -/
def operate (c : Config) (i : Instr) (r : Request) : Option Run :=
  match keyBytes r, serializeValue c i r with
  | some key, some v => some (assemble c r (keyField key) v)
  | _, _ => none

/-- What `Encode` returns (00_scope.md R17): an Encoded Entry or one of the four errors; or no value, where it would
read a byte that holds none (R252). -/
inductive Encoded where
  | ok (hdr data : List Byte)
  | err (e : ValidationError)
  | noValue
  deriving DecidableEq, Repr

/-- `Encode(req)` (40_operation.md R111). -/
def encodeEntry (c : Config) (r : Request) : Encoded :=
  match selectType c.tagCode r.type with
  | none => .err (validateUnsupported r)
  | some i =>
    match validateFor i r with
    | some e => .err e
    | none =>
      match operate c i r with
      | none => .noValue
      | some run => .ok run.hdr run.data

/-- `Valid(req)` (40_operation.md R114). -/
def validRequest (c : Config) (r : Request) : Bool :=
  match selectType c.tagCode r.type with
  | none => false
  | some i => decide (r.klen.toNat ≤ 15) &&
    match i.width with
    | some _ => r.vkind == 0#1
    | none => r.vkind == 1#1 && decide (r.vlen.toNat ≤ 3999)

/-- Whether the input bytes that an accepted operation reads hold a value: `key[0..klen)` and, for a string,
`vbuf[0..vlen)` (R113, R252). -/
def operandsHeld (i : Instr) (r : Request) : Bool :=
  (keyBytes r).isSome &&
    match i.width with
    | some _ => true
    | none => (textBytes r).isSome

/-- Whether every input byte that `Encode` reads of this Request holds a value (R113, R252); it reads none of a
Request that is not valid (60_exceptions.md R229). -/
def bytesHeld (c : Config) (r : Request) : Bool :=
  match selectType c.tagCode r.type with
  | none => true
  | some i => (validateFor i r).isSome || operandsHeld i r

/-- COMPLETE for an operation of type `i` on the Request taken at START (40_operation.md R117): one atomic step to the
end of the operation, with an entry or with a validation error. An instance of another block size is refused (R9). -/
def completeAs (c : Config) (i : Instr) (s : State) : Host.Outcome State Fault Refusal :=
  if c.blockSize ≠ blockBytes then .refused .unsupportedBlockSize
  else
    match s.taken with
    | none => .fault .noOperationInProgress
    | some r =>
      match validateFor i r with
      | some e => .next (takeError e s)
      | none =>
        match operate c i r with
        | none => .fault .requestByteHoldsNoValue
        | some run => .next (publish run (loadWorking run.work s))

/-- COMPLETE for a Request whose type is none of the nine: no operation is selected and the error is taken
(30_encoding.md R87, 60_exceptions.md R224). -/
def completeUnsupported (r : Request) (s : State) : Host.Outcome State Fault Refusal :=
  .next (takeError (validateUnsupported r) s)

end Sys2Proof.Machine
end

