-- ==== Sys2Proof/Machine/Numeric.lean ====
section
/-!
DEFINITION. The eight numeric operations (42_numeric_encoder.md): one meaning each, all over the shared COMPLETE.
-/

namespace Sys2Proof.Machine

/-- `ENC.U8`: an unsigned 8-bit integer (R142, R150). -/
def execEncU8 (s : State) : Host.Outcome State Fault Refusal :=
  completeAs Config.hardware .encU8 s

/-- `ENC.I8`: a signed 8-bit integer (R143, R150). -/
def execEncI8 (s : State) : Host.Outcome State Fault Refusal :=
  completeAs Config.hardware .encI8 s

/-- `ENC.U16`: an unsigned 16-bit integer (R144, R150). -/
def execEncU16 (s : State) : Host.Outcome State Fault Refusal :=
  completeAs Config.hardware .encU16 s

/-- `ENC.I16`: a signed 16-bit integer (R145, R150). -/
def execEncI16 (s : State) : Host.Outcome State Fault Refusal :=
  completeAs Config.hardware .encI16 s

/-- `ENC.U32`: an unsigned 32-bit integer (R146, R150). -/
def execEncU32 (s : State) : Host.Outcome State Fault Refusal :=
  completeAs Config.hardware .encU32 s

/-- `ENC.I32`: a signed 32-bit integer (R147, R150). -/
def execEncI32 (s : State) : Host.Outcome State Fault Refusal :=
  completeAs Config.hardware .encI32 s

/-- `ENC.U64`: an unsigned 64-bit integer (R148, R150). -/
def execEncU64 (s : State) : Host.Outcome State Fault Refusal :=
  completeAs Config.hardware .encU64 s

/-- `ENC.I64`: a signed 64-bit integer (R149, R150). -/
def execEncI64 (s : State) : Host.Outcome State Fault Refusal :=
  completeAs Config.hardware .encI64 s

end Sys2Proof.Machine
end

