-- ==== Sys2Proof/Machine/Text.lean ====
section
/-!
DEFINITION. The string operation (43_string_chunker.md).
-/

namespace Sys2Proof.Machine

/-- `ENC.STR`: a UTF-8 string (R160). -/
def execEncStr (s : State) : Host.Outcome State Fault Refusal :=
  completeAs Config.hardware .encStr s

end Sys2Proof.Machine
end

