-- ==== Sys2Proof/Machine/Dispatch.lean ====
section
/-!
DEFINITION. The meaning of every operation: one arm per constructor of Instr.
-/

namespace Sys2Proof.Machine

def exec (i : Instr) (s : State) : Host.Outcome State Fault Refusal :=
  match i with
  | .encU8 => Sys2Proof.Machine.execEncU8 s
  | .encI8 => Sys2Proof.Machine.execEncI8 s
  | .encU16 => Sys2Proof.Machine.execEncU16 s
  | .encI16 => Sys2Proof.Machine.execEncI16 s
  | .encU32 => Sys2Proof.Machine.execEncU32 s
  | .encI32 => Sys2Proof.Machine.execEncI32 s
  | .encU64 => Sys2Proof.Machine.execEncU64 s
  | .encI64 => Sys2Proof.Machine.execEncI64 s
  | .encStr => Sys2Proof.Machine.execEncStr s

end Sys2Proof.Machine
end

