-- ==== Sys2Proof/Machine/HostPort.lean ====
section
/-!
DEFINITION. The host's side of the interface: what each of its moves does, by phase (40_operation.md R110, R116, R118,
10_state.md R21 to R34).
-/

namespace Sys2Proof.Machine

/-- A host write of the request side: no meaning while BUSY (20_memory.md R62; log entry 10), else the write. -/
def hostWrite (s : State) (written : State) : Host.Outcome State Fault Refusal :=
  match phaseOf s.status with
  | .busy => .fault .hostWriteWhileBusy
  | _ => .next written

/-- What a read returns reaches the host; nothing of the block changes (20_memory.md R57). -/
def hostSees (v : HostValue) (s : State) : State :=
  { s with readout := some v }

/-- A host read of one byte of a buffer: an offset outside it does not exist, and a byte without a value faults. -/
def hostReadByte (m : Buffer) (size a : Nat) (noValue : Fault) (s : State) : Host.Outcome State Fault Refusal :=
  if a < size then
    match readByte m a with
    | some v => .next (hostSees (.byte v) s)
    | none => .fault noValue
  else .fault .noSuchOffset

/-- A host move (R118). START takes the Request whatever the ports and buffers hold (R116). -/
def hostMove (m : HostMove) (s : State) : Host.Outcome State Fault Refusal :=
  match m with
  | .writeNs v => hostWrite s { s with reqNs := v, written := { s.written with ns := true } }
  | .writeType v => hostWrite s { s with reqType := v, written := { s.written with type := true } }
  | .writeKlen v => hostWrite s { s with reqKlen := v, written := { s.written with klen := true } }
  | .writeVkind v => hostWrite s { s with reqVkind := v, written := { s.written with vkind := true } }
  | .writeVnum v => hostWrite s { s with reqVnum := v, written := { s.written with vnum := true } }
  | .writeVlen v => hostWrite s { s with reqVlen := v, written := { s.written with vlen := true } }
  | .writeKey a v =>
    if a < keyFieldSize then hostWrite s { s with mem := { s.mem with key := writeByte s.mem.key a v } }
    else .fault .noSuchOffset
  | .writeVbuf a v =>
    if a < vbufSize then hostWrite s { s with mem := { s.mem with vbuf := writeByte s.mem.vbuf a v } }
    else .fault .noSuchOffset
  | .readNs => .next (hostSees (.byte (portNs s)) s)
  | .readType => .next (hostSees (.byte (portType s)) s)
  | .readKlen => .next (hostSees (.byte (portKlen s)) s)
  | .readVkind => .next (hostSees (.bit (portVkind s)) s)
  | .readVnum => .next (hostSees (.long (portVnum s)) s)
  | .readVlen => .next (hostSees (.half (portVlen s)) s)
  | .readKey a => hostReadByte s.mem.key keyFieldSize a .requestByteHoldsNoValue s
  | .readVbuf a => hostReadByte s.mem.vbuf vbufSize a .requestByteHoldsNoValue s
  | .readStatus => .next (hostSees (.byte s.status) s)
  | .readHdr a => hostReadByte s.mem.hdr blockBytes a .responseHoldsNoValue s
  | .readData a => hostReadByte s.mem.data dataMax a .responseHoldsNoValue s
  | .readSpan =>
    match s.rspSpan with
    | some v => .next (hostSees (.byte v) s)
    | none => .fault .responseHoldsNoValue
  | .readDlen =>
    match s.rspDlen with
    | some v => .next (hostSees (.half v) s)
    | none => .fault .responseHoldsNoValue
  | .start =>
    match phaseOf s.status with
    | .busy => .next s
    | _ => .next (startOperation s)
  | .reset => .next (resetBlock s)

end Sys2Proof.Machine
end

