-- ==== Sys2Proof/Machine/Turns.lean ====
section
/-!
DEFINITION. What a turn does: the block's turn runs the operation that the taken Request's type byte selects, the
host's turn makes its move; and how the host places a request (40_operation.md R110, R116, R117; log entry 7).
-/

namespace Sys2Proof.Machine

/-- COMPLETE at an instance's parameters (10_state.md R39), `run` being the operations' meanings there: the type byte of
the taken Request is decoded and the operation it selects is run; a byte that selects none ends the operation with an
error (30_encoding.md R85, R87). -/
def runOperationAt (c : Config) (run : Instr → State → Host.Outcome State Fault Refusal) (s : State) :
    Host.Outcome State Fault Refusal :=
  match s.taken with
  | none => .fault .noOperationInProgress
  | some r =>
    match decodeWith c.tagCode [r.type] with
    | .ok i _ => run i s
    | .rejected _ => completeUnsupported r s

/-- The block's turn: COMPLETE is its only step and is enabled in phase BUSY alone (R110, R117); in IDLE and DONE the
block does nothing. -/
def blockTurnAt (c : Config) (run : Instr → State → Host.Outcome State Fault Refusal) (s : State) :
    Host.Outcome State Fault Refusal :=
  match phaseOf s.status with
  | .busy => runOperationAt c run s
  | _ => .next s

/-- One turn: the oldest pending one, or the block's own when none is pending. -/
def takeTurnAt (c : Config) (run : Instr → State → Host.Outcome State Fault Refusal) (s : State) :
    Host.Outcome State Fault Refusal :=
  match s.pending with
  | [] => blockTurnAt c run s
  | .block :: rest => blockTurnAt c run { s with pending := rest }
  | .host m :: rest => hostMove m { s with pending := rest }

/-- The step relation of any instance (R39; 00_scope.md R8): `TAG_CODE` and `crc32` are its arguments. An instance of
another block size is refused whole (R9; log entry 3). -/
def stepAt (c : Config) (s : State) : Host.Outcome State Fault Refusal :=
  if c.blockSize = blockBytes then takeTurnAt c (completeAs c) s
  else .refused .unsupportedBlockSize

/-- COMPLETE at the machine's parameters, by the meanings that `exec` dispatches to. -/
def runOperation (s : State) : Host.Outcome State Fault Refusal :=
  runOperationAt Config.hardware exec s

/-- The block's turn at the machine's parameters. -/
def blockTurn (s : State) : Host.Outcome State Fault Refusal :=
  blockTurnAt Config.hardware exec s

/-- One turn at the machine's parameters. -/
def takeTurn (s : State) : Host.Outcome State Fault Refusal :=
  takeTurnAt Config.hardware exec s

/-- The state in which the host has just written the six request ports, `code` to REQ_TYPE and to each other port the
value its register holds, and issued START, and the block's turn is next. It stands for the host's loading of a request; the
buffers are as they were (log entry 24). -/
def placeOperation (code : Byte) (s : State) : State :=
  { startOperation { s with reqType := code, written := ⟨true, true, true, true, true, true⟩ } with pending := [] }

end Sys2Proof.Machine
end

