-- ==== Sys2Proof/Machine/Step.lean ====
section
/-!
DEFINITION. One step of the machine.
-/

namespace Sys2Proof.Machine

/-- One step: the next turn is taken (log entry 7). -/
def step (s : State) : Host.Outcome State Fault Refusal :=
  takeTurn s

/-- `s` with the operation of the table's word `w` started, so that the very next step runs it. A request has no
program memory to stand in: its type byte is the port REQ_TYPE, taken at START (log entry 24). -/
def State.withFetchWord (s : State) (_nbits w : Nat) : State :=
  placeOperation (BitVec.ofNat 8 w) s

end Sys2Proof.Machine
end

