-- ==== Sys2Proof/Machine/Lines.lean ====
section
/-!
DEFINITION. The lines in which operations are written (30_encoding.md R94), as data: "One line means: write the request
ports, issue START, wait for DONE." A line expands to turns; nothing of the machine reads a line (log entry 23).
-/

namespace Sys2Proof.Machine

/-- The value of a line: `num=<integer>` or `text=<bytes>` (R94). -/
inductive LineValue where
  | num (v : Int)
  | text (bytes : List Byte)
  deriving DecidableEq, Repr

/-- A line (R94): `ENC.<T>`, `ENC.RAW <code>` or `RESET`. -/
inductive Line where
  | enc (i : Instr) (ns : Nat) (key : List Byte) (value : LineValue)
  | raw (code : Nat) (ns : Nat) (key : List Byte) (value : LineValue)
  | reset
  deriving DecidableEq, Repr

/-- A value fits its port: an integer is a 64-bit pattern, signed or unsigned, and a text's length fits REQ_VLEN. -/
def LineValue.wellFormed : LineValue → Bool
  | .num v => decide (-(2 ^ 63) ≤ v) && decide (v < 2 ^ 64)
  | .text bytes => decide (bytes.length < 2 ^ 16)

/-- A line fits the ports: a namespace index and a code of 8 bits, a key whose length fits REQ_KLEN (R94, R80). -/
def Line.wellFormed : Line → Bool
  | .enc _ ns key value => decide (ns < 2 ^ 8) && decide (key.length < 2 ^ 8) && value.wellFormed
  | .raw code ns key value =>
    decide (code < 2 ^ 8) && decide (ns < 2 ^ 8) && decide (key.length < 2 ^ 8) && value.wellFormed
  | .reset => true

/-- Writes of consecutive bytes of KEY from offset `a`. -/
def keyWrites : Nat → List Byte → List Turn
  | _, [] => []
  | a, v :: vs => .host (.writeKey a v) :: keyWrites (a + 1) vs

/-- Writes of consecutive bytes of VBUF from offset `a`. -/
def textWrites : Nat → List Byte → List Turn
  | _, [] => []
  | a, v :: vs => .host (.writeVbuf a v) :: textWrites (a + 1) vs

/-- The writes of a line's value (R94): `vkind`, then `vnum`, or `vlen` with as much of the text as VBUF holds. -/
def LineValue.turns : LineValue → List Turn
  | .num v => [.host (.writeVkind 0#1), .host (.writeVnum (BitVec.ofInt 64 v))]
  | .text bytes =>
    [.host (.writeVkind 1#1), .host (.writeVlen (BitVec.ofNat 16 bytes.length))] ++ textWrites 0 (bytes.take vbufSize)

/-- The turns of an operation's line: the writes, START, and the block's turn that reaches DONE. -/
def operationTurns (code : Byte) (ns : Nat) (key : List Byte) (value : LineValue) : List Turn :=
  [.host (.writeNs (BitVec.ofNat 8 ns)), .host (.writeType code), .host (.writeKlen (BitVec.ofNat 8 key.length))] ++
    keyWrites 0 (key.take keyFieldSize) ++ value.turns ++ [.host .start, .block]

/-- The turns of a line (R94) under a type-tag map: `ENC.<T>` writes the code of `T`. -/
def Line.turnsWith (tagCode : Instr → Byte) : Line → List Turn
  | .enc i ns key value => operationTurns (tagCode i) ns key value
  | .raw code ns key value => operationTurns (BitVec.ofNat 8 code) ns key value
  | .reset => [.host .reset]

/-- The turns of a line under the machine's map. -/
def Line.turns (l : Line) : List Turn :=
  l.turnsWith Config.hardware.tagCode

end Sys2Proof.Machine
end

