-- ==== Sys2Proof/Safety.lean ====
section
/-!
DEFINITION. What counts as a safe state and a safe run, and the words the statements use: the invariant, the end
states of an operation written out, and the fields of a Request that an operation reads.
-/

namespace Sys2Proof.Machine

/-- Whose values the host can read (10_state.md R34, 20_memory.md R57): after an operation without error, HDR, DATA,
RSP_SPAN and RSP_DLEN together are the Encoded Entry of one Request; in every other status they hold no value. -/
def responseInv (c : Config) (s : State) : Prop :=
  if statusSucceeded s.status then
    ∃ r hdr data, encodeEntry c r = .ok hdr data ∧
      s.mem.hdr = bytesAt 0 hdr ∧ s.mem.data = bytesAt 0 data ∧
      s.rspSpan = hdr[2]? ∧ s.rspDlen = some (BitVec.ofNat 16 data.length)
  else s.mem.hdr = [] ∧ s.mem.data = [] ∧ s.rspSpan = none ∧ s.rspDlen = none

/-- An operation is in progress exactly in phase BUSY, and its Request is the stable value of the ports and input
buffers (20_memory.md R62, 40_operation.md R116). -/
def requestInv (s : State) : Prop :=
  if phaseOf s.status = .busy then s.taken = some (requestOf s) else s.taken = none

/-- The invariant of an instance: canonical buffers (20_memory.md R50), a legal STATUS (R33), the response as R34 says,
the Request as R116 says, and no working register with a value between steps (R35, R40). -/
def InvAt (c : Config) (s : State) : Prop :=
  s.mem.wf = true ∧ statusLegal s.status = true ∧ responseInv c s ∧ requestInv s ∧ s.work = none

/-- The invariant of the machine. -/
def Inv (s : State) : Prop :=
  InvAt Config.hardware s

/-- The state after an operation without error, field by field (40_operation.md R117): `s` but for the response, STATUS
`0x02`, and the operation no longer in progress. -/
def afterEntry (s : State) (hdr data : List Byte) (span : Byte) (calls : List (List Byte)) : State :=
  { s with
    mem := { s.mem with hdr := bytesAt 0 hdr, data := bytesAt 0 data }
    rspSpan := some span
    rspDlen := some (BitVec.ofNat 16 data.length)
    crcStream := calls
    taken := none
    status := 0x02#8
    work := none }

/-- The state after an operation with a validation error, field by field (60_exceptions.md R230): `s` but for the
response, which holds no value, STATUS as given, and the operation no longer in progress. -/
def afterError (s : State) (status : BitVec 8) : State :=
  { s with
    mem := { s.mem with hdr := [], data := [] }
    rspSpan := none
    rspDlen := none
    crcStream := []
    taken := none
    status := status
    work := none }

/-- The header block written out: its fields in the order of their offsets (30_encoding.md R88), with the header
checksum over the 28 bytes around the checksum field (46_crc_scope.md R210 to R213). -/
def headerBlock (crc32 : List Byte → Vector Byte 4) (ns type span : Byte) (kf df : List Byte) : List Byte :=
  [ns, type, span, 0xFF#8] ++ (crc32 ([ns, type, span, 0xFF#8] ++ kf ++ df)).toList ++ kf ++ df

/-- `X[a..b)`, the half-open range of a byte sequence (00_scope.md R13). -/
def slice (xs : List Byte) (a b : Nat) : List Byte := (xs.take b).drop a

/-- The key field of the header: the key's bytes, then zeros up to 16 (41_key_serializer.md R131). -/
def paddedKey (key : List Byte) : List Byte := key ++ rep 0x00#8 (16 - key.length)

/-- What a numeric operation with tag `code` and data field `df` does for every Request whose bytes hold a value
(42_numeric_encoder.md R150): `KeyTooLong`, else `TypeMismatch` when text is presented, else a 32-byte entry of span 1
with an empty data buffer and one checksum call on the 28 bytes of the scope. The request ports, KEY, VBUF and the
model's own fields are as before (`afterError`, `afterEntry`). The checksum is the machine's parameter, whatever its
value (log entry 2); that a long key is reported before a wrong kind is the spec's decision D10 (log entry 14). -/
def NumericOperation (i : Instr) (code : Byte) (df : BitVec 64 → List Byte) : Prop :=
  selectType Config.hardware.tagCode code = some i ∧
  ∀ (s : State) (r : Request), s.taken = some r → r.type = code →
    (15 < r.klen.toNat → exec i s = .next (afterError s 0x06#8)) ∧
    (r.klen.toNat ≤ 15 → r.vkind = 1#1 → exec i s = .next (afterError s 0x0A#8)) ∧
    (r.klen.toNat ≤ 15 → r.vkind = 0#1 → ∀ key, keyBytes r = some key →
      exec i s = .next (afterEntry s
        (headerBlock Config.hardware.crc32 r.ns code 0x01#8 (paddedKey key) (df r.vnum)) [] 0x01#8
        [[r.ns, code, 0x01#8, 0xFF#8] ++ paddedKey key ++ df r.vnum]))

/-- The condition of each validation error (60_exceptions.md R221 to R224). -/
def causeHolds (c : Config) (r : Request) : ValidationError → Prop
  | .keyTooLong => 15 < r.klen.toNat
  | .typeMismatch => ∃ i, selectType c.tagCode r.type = some i ∧
      ((i ≠ .encStr ∧ r.vkind = 1#1) ∨ (i = .encStr ∧ r.vkind = 0#1))
  | .valueTooLarge => selectType c.tagCode r.type = some .encStr ∧ r.vkind = 1#1 ∧ 4000 < r.vlen.toNat + 1
  | .unsupportedType => ∀ i, c.tagCode i ≠ r.type

/-- Two Requests agree on every field that `Encode` reads of a Request of type `i` (40_operation.md R113): namespace,
type, key length and kind, the key's bytes, and the low `8 * WIDTH` bits of the number or the length and bytes of the
text. They may differ in everything else. -/
def agreeOnRead (i : Instr) (r r' : Request) : Prop :=
  r.ns = r'.ns ∧ r.type = r'.type ∧ r.klen = r'.klen ∧ r.vkind = r'.vkind ∧
    (∀ a, a < r.klen.toNat → readByte r.key a = readByte r'.key a) ∧
    match i.width with
    | some w => r.vnum.toNat % 2 ^ (8 * w) = r'.vnum.toNat % 2 ^ (8 * w)
    | none => r.vlen = r'.vlen ∧ ∀ a, a < r.vlen.toNat → readByte r.vbuf a = readByte r'.vbuf a

/-- A reader's value of the low `w` bytes of a data field, as the type `i` reads them (42_numeric_encoder.md R141). -/
def readBack (i : Instr) (df : List Byte) : Option Int :=
  match i.width, i.signed with
  | some w, some true =>
    let n := leValue (df.take w)
    some (if n < 2 ^ (8 * w - 1) then (n : Int) else (n : Int) - 2 ^ (8 * w))
  | some w, some false => some (leValue (df.take w) : Int)
  | _, _ => none

/-- The value of a numeric operand as the type `i` means it (00_scope.md R14). -/
def operandValue (i : Instr) (v : BitVec 64) : Int :=
  match i.signed with
  | some true => v.toInt
  | _ => (v.toNat : Int)

/-- The ports show what a line writes (30_encoding.md R94): as many of the key's and the text's bytes as KEY and VBUF have
room for. -/
def LineWritten (code : Byte) (ns : Nat) (key : List Byte) (value : LineValue) (t : State) : Prop :=
  portNs t = BitVec.ofNat 8 ns ∧ portType t = code ∧ portKlen t = BitVec.ofNat 8 key.length ∧
    (∀ j, j < key.length → j < 16 → readByte t.mem.key j = key[j]?) ∧
    match value with
    | .num v => portVkind t = 0#1 ∧ portVnum t = BitVec.ofInt 64 v
    | .text bytes => portVkind t = 1#1 ∧ portVlen t = BitVec.ofNat 16 bytes.length ∧
        ∀ j, j < bytes.length → j < 3999 → readByte t.mem.vbuf j = bytes[j]?

/-- The end of a line's operation: phase DONE, the ports as the line wrote them, and the response or error that
`Encode` returns for the Request in them. -/
def LineResult (code : Byte) (ns : Nat) (key : List Byte) (value : LineValue) (t : State) : Prop :=
  phaseOf t.status = .done ∧ LineWritten code ns key value t ∧
    match encodeEntry Config.hardware (requestOf t) with
    | .ok hdr data => statusErr t.status = 0#3 ∧ t.mem.hdr = bytesAt 0 hdr ∧ t.mem.data = bytesAt 0 data
    | .err e => statusErr t.status = errorCode e
    | .noValue => False

/-- `n` steps of the machine. A run of operations is over when the last one has reached phase DONE (40_operation.md R119). -/
def runSteps : Nat → State → Host.Outcome State Fault Refusal
  | 0, s => .next s
  | n + 1, s =>
    match step s with
    | .next t => runSteps n t
    | .fault f => .fault f
    | .refused f => .refused f

end Sys2Proof.Machine
end

