-- ==== Sys2Proof/Certificates/Slice0/Obligations.lean ====
section
/-!
DEFINITION. The statements for the provers. Each docstring names the rule of spec/ it formalises; where a clause rests
on a choice of the model, it names the log entry.
-/

open Sys2Proof Sys2Proof.Machine

/-! ## Reset and the invariant -/

/-- R40: after power-on reset STATUS is 0 in every field, the phase is IDLE, and HDR, DATA, RSP_SPAN, RSP_DLEN, the
working registers, KEY and VBUF hold no value; no request port has been written, so what each shows is a free value (log
entry 9). What their registers hold is the model's choice (log entry 5), is never read, and is not stated. -/
def Obligations.PowerOnResetValues : Prop :=
  statusBusy State.reset.status = false ∧ statusDone State.reset.status = false ∧
  statusErr State.reset.status = 0#3 ∧ statusReserved State.reset.status = 0#3 ∧
  phaseOf State.reset.status = .idle ∧
  (∀ a, readByte State.reset.mem.hdr a = none) ∧ (∀ a, readByte State.reset.mem.data a = none) ∧
  State.reset.rspSpan = none ∧ State.reset.rspDlen = none ∧ State.reset.work = none ∧
  State.reset.written = ⟨false, false, false, false, false, false⟩ ∧
  (∀ a, readByte State.reset.mem.key a = none) ∧ (∀ a, readByte State.reset.mem.vbuf a = none)

/-- R250: RESET is allowed in every phase; STATUS becomes 0, the response and the working registers lose their values,
an operation in progress is abandoned, the request ports and input buffers stay; and nothing of earlier operations is
left: two states with the same port registers and input buffers are the same after it. -/
def Obligations.ResetMoveForgetsEverythingButTheRequestSide : Prop :=
  (∀ s : State, ∃ t, hostMove .reset s = .next t ∧
    t.status = 0#8 ∧ phaseOf t.status = .idle ∧ t.taken = none ∧ t.work = none ∧
    (∀ a, readByte t.mem.hdr a = none) ∧ (∀ a, readByte t.mem.data a = none) ∧ t.rspSpan = none ∧ t.rspDlen = none ∧
    t.reqNs = s.reqNs ∧ t.reqType = s.reqType ∧ t.reqKlen = s.reqKlen ∧ t.reqVkind = s.reqVkind ∧
    t.reqVnum = s.reqVnum ∧ t.reqVlen = s.reqVlen ∧ t.mem.key = s.mem.key ∧ t.mem.vbuf = s.mem.vbuf ∧
    t.written = s.written) ∧
  (∀ s s' t t' : State, s.reqNs = s'.reqNs → s.reqType = s'.reqType → s.reqKlen = s'.reqKlen → s.reqVkind = s'.reqVkind →
    s.reqVnum = s'.reqVnum → s.reqVlen = s'.reqVlen → s.mem.key = s'.mem.key → s.mem.vbuf = s'.mem.vbuf →
    s.written = s'.written → s.pending = s'.pending → s.readout = s'.readout → hostMove .reset s = .next t → hostMove .reset s' = .next t' → t = t')

/-- The invariant holds right after reset. -/
def Obligations.InvariantHoldsAtReset : Prop := Inv State.reset

/-- Every step keeps the invariant: canonical buffers, a legal STATUS, a response that is the Encoded Entry of one
Request exactly when DONE with ERR 0, the Request of the operation in progress equal to the ports and input buffers and
held exactly while BUSY, no working register with a value between steps. -/
def Obligations.EveryStepKeepsTheInvariant : Prop :=
  ∀ s t : State, Inv s → step s = .next t → Inv t

/-- R39, R8: the same at any type-tag map and any checksum function: every step of any instance keeps its invariant. -/
def Obligations.EveryStepKeepsTheInvariantAtAnyParameters : Prop :=
  ∀ (c : Config) (s t : State), InvAt c s → stepAt c s = .next t → InvAt c t

/-- R117, R257: COMPLETE is always enabled in phase BUSY, so the block's turn ends the operation in phase DONE, whichever
ports the host has written (the model's choice, log entry 9, against R252), when every byte of KEY and VBUF that it reads
holds a value; when one does not, the model faults on the read (R252; `CompleteNeedsTheBytesTheOperationReads`). The
invariant rules out states that no run reaches. -/
def Obligations.BusyBlockAlwaysReachesDone : Prop :=
  ∀ s : State, Inv s → phaseOf s.status = .busy → bytesHeld Config.hardware (requestOf s) = true →
    (s.pending = [] ∨ s.pending.head? = some .block) →
    ∃ t, step s = .next t ∧ phaseOf t.status = .done ∧ t.taken = none ∧ requestOf t = requestOf s

/-- R34, R57, R214, R31, R32: whatever response the host can read is complete and consistent: a 32-byte header whose
checksum field matches its scope, chunk index `0xFF`, RSP_SPAN and RSP_DLEN as the header says, and a value at exactly
the first RSP_DLEN bytes of DATA. -/
def Obligations.VisibleResponseIsCompleteAndConsistent : Prop :=
  ∀ s : State, Inv s → statusSucceeded s.status = true →
    ∃ hdr span dlen, readBytes s.mem.hdr 32 0 = some hdr ∧ (Config.hardware.crc32 (crcScope hdr)).toList = crcField hdr ∧
      hdr[3]? = some 0xFF#8 ∧ hdr[2]? = some span ∧ s.rspSpan = some span ∧ s.rspDlen = some dlen ∧
      dlen.toNat = (span.toNat - 1) * 32 ∧ dlen.toNat ≤ 4000 ∧
      (∀ a, (readByte s.mem.hdr a).isSome = true ↔ a < 32) ∧ (∀ a, (readByte s.mem.data a).isSome = true ↔ a < dlen.toNat)

/-! ## Steps and decoding -/

/-- A step in BUSY at the block's turn runs exactly the operation that the taken Request's type byte decodes to. -/
def Obligations.StepRunsTheDecodedOperation : Prop :=
  ∀ (s : State) (r : Request) (i : Instr), phaseOf s.status = .busy → s.taken = some r → decode [r.type] = .ok i [] →
    (s.pending = [] → step s = exec i s) ∧
    (∀ rest, s.pending = .block :: rest → step s = exec i { s with pending := rest })

/-- R110, R118: a step at the host's turn makes the host's move, and the block's turn outside BUSY changes nothing. -/
def Obligations.OtherTurnsMakeTheHostsMoveOrNothing : Prop :=
  ∀ s : State,
    (∀ m rest, s.pending = .host m :: rest → step s = hostMove m { s with pending := rest }) ∧
    (phaseOf s.status ≠ .busy → s.pending = [] → step s = .next s) ∧
    (phaseOf s.status ≠ .busy → ∀ rest, s.pending = .block :: rest → step s = .next { s with pending := rest })

/-- R39: the machine is the instance at its parameters: its step and its operations are those of the step relation that
takes the parameters as arguments. -/
def Obligations.MachineIsTheInstanceAtItsParameters : Prop :=
  (∀ s : State, step s = stepAt Config.hardware s) ∧
  (∀ (i : Instr) (s : State), exec i s = completeAs Config.hardware i s)

/-- R39, R116: a host's turn makes the same move at any parameters, START among them: at any type-tag map and any checksum
function it starts the operation outside BUSY, whatever the ports and buffers hold, and has no effect while BUSY. The list
of turns is log entry 7. -/
def Obligations.HostTurnsAreTheSameAtAnyParameters : Prop :=
  ∀ (c : Config) (s : State), c.blockSize = 32 →
    (∀ m rest, s.pending = .host m :: rest →
      stepAt c s = hostMove m { s with pending := rest } ∧ stepAt c s = step s) ∧
    (∀ rest, s.pending = .host .start :: rest →
      (phaseOf s.status ≠ .busy → stepAt c s = .next (startOperation { s with pending := rest })) ∧
      (phaseOf s.status = .busy → stepAt c s = .next { s with pending := rest }))

/-- R85: the nine type bytes of the default map select the nine operations. -/
def Obligations.NineTypeBytesSelectTheNineOperations : Prop :=
  decode [0x01#8] = .ok .encU8 [] ∧ decode [0x11#8] = .ok .encI8 [] ∧ decode [0x02#8] = .ok .encU16 [] ∧
  decode [0x12#8] = .ok .encI16 [] ∧ decode [0x04#8] = .ok .encU32 [] ∧ decode [0x14#8] = .ok .encI32 [] ∧
  decode [0x08#8] = .ok .encU64 [] ∧ decode [0x18#8] = .ok .encI64 [] ∧ decode [0x21#8] = .ok .encStr []

/-- R10, R85: under any type-tag map, the code of an operation that is well formed in it selects that operation, a code
that selects an operation is its code, decoding the encoded operation gives it back, whatever follows, and no other byte
decodes to it; under the default map (log entry 1) all nine operations are well formed, so it holds of each. -/
def Obligations.TypeTagMapRoundTrips : Prop :=
  (∀ (tagCode : Instr → Byte) (i : Instr), i.wellFormed tagCode = true → selectType tagCode (tagCode i) = some i) ∧
  (∀ (tagCode : Instr → Byte) (b : Byte) (i : Instr), selectType tagCode b = some i → tagCode i = b) ∧
  (∀ (tagCode : Instr → Byte) (i : Instr) (rest : List Byte), i.wellFormed tagCode = true →
    decodeWith tagCode (encodeWith tagCode i ++ rest) = .ok i rest) ∧
  (∀ (tagCode : Instr → Byte) (i : Instr) (b : Byte) (rest rest' : List Byte),
    decodeWith tagCode (b :: rest) = .ok i rest' → encodeWith tagCode i = [b] ∧ rest' = rest) ∧
  (∀ (i : Instr), i.wellFormed defaultTagCode = true) ∧
  (∀ (i : Instr) (rest : List Byte), decode (encode i ++ rest) = .ok i rest) ∧
  (∀ (i : Instr) (b : Byte) (rest : List Byte), decode (b :: rest) = .ok i rest → encode i = [b])

/-- R87: every type byte other than the nine is illegal; the operation ends with `UnsupportedType` and no output, whatever
REQ_VKIND is. The nine codes, and so the number 247, are the defaults (log entry 1, PRESUMED); that the error's code is 4,
STATUS `0x12`, is the spec's decision D11; that a key too long is reported instead, hence the premise `klen ≤ 15`, is its
decision D10 (log entry 14; `PriorityOfErrors`). -/
def Obligations.OtherTypeBytesEndWithUnsupportedType : Prop :=
  ((List.range 256).filter fun n => (selectType defaultTagCode (BitVec.ofNat 8 n)).isNone).length = 247 ∧
  ∀ (s : State) (r : Request), phaseOf s.status = .busy → s.taken = some r → (∀ i, r.type ≠ defaultTagCode i) →
    r.klen.toNat ≤ 15 → blockTurn s = .next (afterError s 0x12#8)

/-! ## The encoding function -/

/-- R114: for every Request whose bytes read hold a value, `Encode` returns an entry or one of the four errors, and an
entry exactly when the Request is valid. -/
def Obligations.EncodeIsTotal : Prop :=
  ∀ (c : Config) (r : Request), bytesHeld c r = true →
    ((∃ hdr data, encodeEntry c r = .ok hdr data) ∨ (∃ e, encodeEntry c r = .err e)) ∧
    ((∃ hdr data, encodeEntry c r = .ok hdr data) ↔
      r.klen.toNat ≤ 15 ∧ ∃ i, selectType c.tagCode r.type = some i ∧
        (i.width.isSome = true → r.vkind = 0#1) ∧ (i.width = none → r.vkind = 1#1 ∧ r.vlen.toNat ≤ 3999))

/-- R121, all seven laws, for every type-tag map and every checksum function. -/
def Obligations.EncodedEntryLaws : Prop :=
  ∀ (c : Config) (r : Request) (hdr data : List Byte), encodeEntry c r = .ok hdr data →
    (hdr.length = 32 ∧ ∃ span, hdr[2]? = some span ∧ data.length = (span.toNat - 1) * 32) ∧
    hdr[3]? = some 0xFF#8 ∧
    (∀ i w, selectType c.tagCode r.type = some i → i.width = some w →
      slice hdr 24 (24 + w) = leBytes w (r.vnum.toNat % 2 ^ (8 * w)) ∧ slice hdr (24 + w) 32 = rep 0xFF#8 (8 - w) ∧
      hdr[2]? = some 0x01#8) ∧
    (∀ i, selectType c.tagCode r.type = some i → i.width = none →
      hdr[2]? = some (BitVec.ofNat 8 (1 + (r.vlen.toNat + 1 + 31) / 32)) ∧
      (∀ j, j < r.vlen.toNat → data[j]? = readByte r.vbuf j) ∧ data[r.vlen.toNat]? = some 0x00#8 ∧
      slice data (r.vlen.toNat + 1) data.length = rep 0xFF#8 (data.length - (r.vlen.toNat + 1)) ∧
      slice hdr 24 26 = leBytes 2 (r.vlen.toNat + 1) ∧ slice hdr 26 28 = [0xFF#8, 0xFF#8] ∧
      slice hdr 28 32 = (c.crc32 (slice data 0 (r.vlen.toNat + 1))).toList) ∧
    slice hdr 4 8 = (c.crc32 (slice hdr 0 4 ++ slice hdr 8 32)).toList ∧
    (SingleBitDetect c.crc32 → ∀ i b, (i < 4 ∨ 8 ≤ i ∧ i < 32) → b < 8 →
      (c.crc32 (crcScope (flipBit hdr i b))).toList ≠ slice hdr 4 8) ∧
    ((∀ j, j < r.klen.toNat → hdr[8 + j]? = readByte r.key j) ∧
      slice hdr (8 + r.klen.toNat) 24 = rep 0x00#8 (16 - r.klen.toNat))

/-- R117: COMPLETE in BUSY writes what `Encode` returns for the taken Request, in one step: the entry, with the
checksum calls of R64, or the error's code. Where `Encode` would read a byte that holds no value it faults, as R252 says
(log entry 6); the record of the calls is log entry 13. That the string type, which makes two calls, has code `0x21` is the
default map (log entry 1, PRESUMED). -/
def Obligations.CompleteWritesWhatEncodeReturns : Prop :=
  ∀ (s : State) (r : Request), phaseOf s.status = .busy → s.taken = some r →
    match encodeEntry Config.hardware r with
    | .ok hdr data => ∃ span, hdr[2]? = some span ∧
        blockTurn s = .next (afterEntry s hdr data span
          (if r.type = 0x21#8 then [slice data 0 (r.vlen.toNat + 1), crcScope hdr] else [crcScope hdr]))
    | .err e => blockTurn s = .next (afterError s (statusEnded (errorCode e)))
    | .noValue => blockTurn s = .fault .requestByteHoldsNoValue

/-- R39, R117: the same at any type-tag map and any checksum function: in BUSY at the block's turn, a step of the
instance writes what `Encode` returns at its parameters (log entries 6 and 13 as there). -/
def Obligations.CompleteWritesWhatEncodeReturnsAtAnyParameters : Prop :=
  ∀ (c : Config) (s : State) (r : Request), c.blockSize = 32 → phaseOf s.status = .busy → s.taken = some r →
    s.pending = [] →
    match encodeEntry c r with
    | .ok hdr data => ∃ span, hdr[2]? = some span ∧
        stepAt c s = .next (afterEntry s hdr data span
          (if selectType c.tagCode r.type = some .encStr then [slice data 0 (r.vlen.toNat + 1), crcScope hdr]
            else [crcScope hdr]))
    | .err e => stepAt c s = .next (afterError s (statusEnded (errorCode e)))
    | .noValue => stepAt c s = .fault .requestByteHoldsNoValue

/-- R221 to R224: an error is reported only when its condition holds; a Request whose only cause is that condition
gets that error, for every type-tag map and every checksum function. The conditions name no byte of KEY or VBUF: an
error is raised without reading them. -/
def Obligations.EachErrorHasItsCondition : Prop :=
  ∀ (c : Config) (r : Request),
    (∀ e, encodeEntry c r = .err e → causeHolds c r e) ∧
    (∀ e, causeHolds c r e → (∀ e', causeHolds c r e' → e' = e) → encodeEntry c r = .err e)

/-- With several causes: a key too long is reported first, the other three exclude one another, and some cause means
some error. The order is the spec's decision D10 (log entry 14). -/
def Obligations.PriorityOfErrors : Prop :=
  ∀ (c : Config) (r : Request),
    (causeHolds c r .keyTooLong → encodeEntry c r = .err .keyTooLong) ∧
    (∀ e e', e ≠ .keyTooLong → e' ≠ .keyTooLong → causeHolds c r e → causeHolds c r e' → e = e') ∧
    (∀ e, causeHolds c r e → ¬ causeHolds c r .keyTooLong → encodeEntry c r = .err e)

/-- R113: `Encode` reads nothing but the fields of the Request that its operation uses: two Requests that agree on
those have the same outcome, whatever else they hold. -/
def Obligations.EncodeReadsOnlyItsFields : Prop :=
  ∀ (c : Config) (r r' : Request),
    (∀ i, selectType c.tagCode r.type = some i → agreeOnRead i r r' → encodeEntry c r = encodeEntry c r') ∧
    (selectType c.tagCode r.type = none → r.type = r'.type → r.klen = r'.klen → encodeEntry c r = encodeEntry c r')

/-! ## The nine operations -/

/-- R142, R143: `ENC.U8` and `ENC.I8`, their results, errors and corner cases. The codes are the rules' defaults (log
entry 1); that a long key is reported before a wrong kind is R226, the spec's D10 (log entry 14); what is stored of an
out-of-range value rests on D7 (log entry 15). -/
def Obligations.EightBitOperations : Prop :=
  NumericOperation .encU8 0x01#8
    (fun v => [v.extractLsb' 0 8, 0xFF#8, 0xFF#8, 0xFF#8, 0xFF#8, 0xFF#8, 0xFF#8, 0xFF#8]) ∧
  NumericOperation .encI8 0x11#8
    (fun v => [v.extractLsb' 0 8, 0xFF#8, 0xFF#8, 0xFF#8, 0xFF#8, 0xFF#8, 0xFF#8, 0xFF#8]) ∧
  numField 1 0 = 0x00#8 :: rep 0xFF#8 7 ∧ numField 1 255 = rep 0xFF#8 8 ∧ numField 1 300 = 0x2C#8 :: rep 0xFF#8 7 ∧
  numField 1 (-1#64).toNat = rep 0xFF#8 8 ∧ numField 1 (-128#64).toNat = 0x80#8 :: rep 0xFF#8 7 ∧
  numField 1 127 = 0x7F#8 :: rep 0xFF#8 7 ∧ numField 1 128 = 0x80#8 :: rep 0xFF#8 7

/-- R144, R145: `ENC.U16` and `ENC.I16`, their results, errors and corner cases. The codes are the rules' defaults
(log entry 1); that a long key is reported before a wrong kind is R226, the spec's D10 (log entry 14); what is stored of
an out-of-range value rests on D7 (log entry 15). -/
def Obligations.SixteenBitOperations : Prop :=
  NumericOperation .encU16 0x02#8
    (fun v => [v.extractLsb' 0 8, v.extractLsb' 8 8, 0xFF#8, 0xFF#8, 0xFF#8, 0xFF#8, 0xFF#8, 0xFF#8]) ∧
  NumericOperation .encI16 0x12#8
    (fun v => [v.extractLsb' 0 8, v.extractLsb' 8 8, 0xFF#8, 0xFF#8, 0xFF#8, 0xFF#8, 0xFF#8, 0xFF#8]) ∧
  numField 2 0x1234 = [0x34#8, 0x12#8] ++ rep 0xFF#8 6 ∧ numField 2 0 = [0x00#8, 0x00#8] ++ rep 0xFF#8 6 ∧
  numField 2 65535 = rep 0xFF#8 8 ∧ numField 2 65536 = [0x00#8, 0x00#8] ++ rep 0xFF#8 6 ∧
  numField 2 (-1#64).toNat = rep 0xFF#8 8 ∧ numField 2 (-2#64).toNat = 0xFE#8 :: rep 0xFF#8 7 ∧
  numField 2 (-32768#64).toNat = [0x00#8, 0x80#8] ++ rep 0xFF#8 6 ∧ numField 2 32767 = [0xFF#8, 0x7F#8] ++ rep 0xFF#8 6

/-- R146, R147: `ENC.U32` and `ENC.I32`, their results, errors and corner cases. The codes are the rules' defaults
(log entry 1); that a long key is reported before a wrong kind is R226, the spec's D10 (log entry 14); what is stored of
an out-of-range value rests on D7 (log entry 15). -/
def Obligations.ThirtyTwoBitOperations : Prop :=
  NumericOperation .encU32 0x04#8
    (fun v => [v.extractLsb' 0 8, v.extractLsb' 8 8, v.extractLsb' 16 8, v.extractLsb' 24 8,
      0xFF#8, 0xFF#8, 0xFF#8, 0xFF#8]) ∧
  NumericOperation .encI32 0x14#8
    (fun v => [v.extractLsb' 0 8, v.extractLsb' 8 8, v.extractLsb' 16 8, v.extractLsb' 24 8,
      0xFF#8, 0xFF#8, 0xFF#8, 0xFF#8]) ∧
  numField 4 42 = [0x2A#8, 0x00#8, 0x00#8, 0x00#8] ++ rep 0xFF#8 4 ∧
  numField 4 0 = rep 0x00#8 4 ++ rep 0xFF#8 4 ∧ numField 4 0xFFFFFFFF = rep 0xFF#8 8 ∧
  numField 4 0xDEADBEEF = [0xEF#8, 0xBE#8, 0xAD#8, 0xDE#8] ++ rep 0xFF#8 4 ∧
  numField 4 0x100000000 = rep 0x00#8 4 ++ rep 0xFF#8 4 ∧ numField 4 (-1#64).toNat = rep 0xFF#8 8 ∧
  numField 4 (-2147483648#64).toNat = [0x00#8, 0x00#8, 0x00#8, 0x80#8] ++ rep 0xFF#8 4 ∧
  numField 4 2147483647 = [0xFF#8, 0xFF#8, 0xFF#8, 0x7F#8] ++ rep 0xFF#8 4

/-- R148, R149: `ENC.U64` and `ENC.I64`, their results, errors and corner cases. The codes are the rules' defaults (log
entry 1); that a long key is reported before a wrong kind is R226, the spec's D10 (log entry 14). -/
def Obligations.SixtyFourBitOperations : Prop :=
  NumericOperation .encU64 0x08#8
    (fun v => [v.extractLsb' 0 8, v.extractLsb' 8 8, v.extractLsb' 16 8, v.extractLsb' 24 8,
      v.extractLsb' 32 8, v.extractLsb' 40 8, v.extractLsb' 48 8, v.extractLsb' 56 8]) ∧
  NumericOperation .encI64 0x18#8
    (fun v => [v.extractLsb' 0 8, v.extractLsb' 8 8, v.extractLsb' 16 8, v.extractLsb' 24 8,
      v.extractLsb' 32 8, v.extractLsb' 40 8, v.extractLsb' 48 8, v.extractLsb' 56 8]) ∧
  (∀ v : BitVec 64, inRange .encU64 v ∧ inRange .encI64 v) ∧
  numField 8 0 = rep 0x00#8 8 ∧ numField 8 0xFFFFFFFFFFFFFFFF = rep 0xFF#8 8 ∧
  numField 8 0x0102030405060708 = [0x08#8, 0x07#8, 0x06#8, 0x05#8, 0x04#8, 0x03#8, 0x02#8, 0x01#8] ∧
  numField 8 (-1#64).toNat = rep 0xFF#8 8 ∧ numField 8 (2 ^ 63) = rep 0x00#8 7 ++ [0x80#8] ∧
  numField 8 (2 ^ 63 - 1) = rep 0xFF#8 7 ++ [0x7F#8]

/-- R160: `ENC.STR`, its result, its errors and the source's example: payload, span, padded data buffer, data field
with the payload checksum, two checksum calls, payload first. The code is the rule's default (log entry 1); the checksum
is the machine's parameter (log entry 2); that a long key is reported first is R226, the spec's D10 (log entry 14). -/
def Obligations.StringOperation : Prop :=
  selectType Config.hardware.tagCode 0x21#8 = some .encStr ∧
  (∀ (s : State) (r : Request), s.taken = some r → r.type = 0x21#8 →
    (15 < r.klen.toNat → exec .encStr s = .next (afterError s 0x06#8)) ∧
    (r.klen.toNat ≤ 15 → r.vkind = 0#1 → exec .encStr s = .next (afterError s 0x0A#8)) ∧
    (r.klen.toNat ≤ 15 → r.vkind = 1#1 → 4000 < r.vlen.toNat + 1 → exec .encStr s = .next (afterError s 0x0E#8)) ∧
    (r.klen.toNat ≤ 15 → r.vkind = 1#1 → r.vlen.toNat + 1 ≤ 4000 →
      ∀ key text, keyBytes r = some key → textBytes r = some text →
        let l := r.vlen.toNat + 1
        let blocks := (l + 31) / 32
        let payload := text ++ [0x00#8]
        let df := [BitVec.ofNat 8 (l % 256), BitVec.ofNat 8 (l / 256), 0xFF#8, 0xFF#8] ++ (Config.hardware.crc32 payload).toList
        exec .encStr s = .next (afterEntry s
          (headerBlock Config.hardware.crc32 r.ns 0x21#8 (BitVec.ofNat 8 (1 + blocks)) (paddedKey key) df)
          (payload ++ rep 0xFF#8 (blocks * 32 - l)) (BitVec.ofNat 8 (1 + blocks))
          [payload, [r.ns, 0x21#8, BitVec.ofNat 8 (1 + blocks), 0xFF#8] ++ paddedKey key ++ df]))) ∧
  stringSpan 3 = 2 ∧ dataLength 2 = 32 ∧
  dataBuffer (payloadOf [0x61#8, 0x62#8]) = [0x61#8, 0x62#8, 0x00#8] ++ rep 0xFF#8 29 ∧
  (∀ pcrc, stringField 3 pcrc = [0x03#8, 0x00#8, 0xFF#8, 0xFF#8] ++ pcrc)

/-- R230, R225, R229: an operation whose Request is not valid ends with BUSY clear, DONE set and the error's code, no
response, no checksum call, and leaves the request ports and input buffers as they were. -/
def Obligations.ErrorRecordsOnlyItsCode : Prop :=
  ∀ (s : State) (r : Request) (e : ValidationError), phaseOf s.status = .busy → s.taken = some r →
    encodeEntry Config.hardware r = .err e →
    ∃ t, blockTurn s = .next t ∧ statusBusy t.status = false ∧ statusDone t.status = true ∧
      statusErr t.status = errorCode e ∧ statusReserved t.status = 0#3 ∧
      (∀ a, readByte t.mem.hdr a = none) ∧ (∀ a, readByte t.mem.data a = none) ∧ t.rspSpan = none ∧ t.rspDlen = none ∧
      t.crcStream = [] ∧ t.work = none ∧ t.taken = none ∧ requestOf t = requestOf s ∧ t.written = s.written ∧
      t.pending = s.pending ∧ t.readout = s.readout

/-- The frame of the nine operations: whichever ends in a next state leaves the request ports, KEY and VBUF, the record
of written ports and the model's own fields unchanged; HDR holds nothing beyond its 32 bytes, DATA nothing at or beyond
RSP_DLEN, and nothing at all for a numeric operation or an error; no working register keeps a value. -/
def Obligations.OperationsFrame : Prop :=
  ∀ (i : Instr) (s t : State), exec i s = .next t →
    t.reqNs = s.reqNs ∧ t.reqType = s.reqType ∧ t.reqKlen = s.reqKlen ∧ t.reqVkind = s.reqVkind ∧
    t.reqVnum = s.reqVnum ∧ t.reqVlen = s.reqVlen ∧ t.written = s.written ∧
    (∀ a, readByte t.mem.key a = readByte s.mem.key a) ∧ (∀ a, readByte t.mem.vbuf a = readByte s.mem.vbuf a) ∧
    (∀ a, 32 ≤ a → readByte t.mem.hdr a = none) ∧
    (∀ a, (∀ d, t.rspDlen = some d → d.toNat ≤ a) → readByte t.mem.data a = none) ∧
    (i ≠ .encStr → ∀ a, readByte t.mem.data a = none) ∧
    t.work = none ∧ t.taken = none ∧ t.pending = s.pending ∧ t.readout = s.readout

/-- R20, R232: nothing but the taken Request reaches the result of an operation. -/
def Obligations.NothingIsCarriedBetweenOperations : Prop :=
  ∀ (i : Instr) (s s' t : State), s.taken = s'.taken → exec i s = .next t →
    ∃ t', exec i s' = .next t' ∧ t'.mem.hdr = t.mem.hdr ∧ t'.mem.data = t.mem.data ∧ t'.rspSpan = t.rspSpan ∧
      t'.rspDlen = t.rspDlen ∧ t'.status = t.status ∧ t'.crcStream = t.crcStream

/-- R64: a numeric operation makes one checksum call, on the scope of the header it leaves in HDR, 28 bytes; `ENC.STR`
makes two, first on the payload `DATA[0..L)`, `L = vlen + 1`, and then on the scope of HDR, in which the payload's checksum
lies; an error makes none; no call is on the empty sequence. That the calls are recorded in `crcStream` is the model's
choice (log entry 13). -/
def Obligations.ChecksumCallsOfAnOperation : Prop :=
  ∀ (i : Instr) (s t : State) (r : Request), s.taken = some r → exec i s = .next t →
    (statusErr t.status ≠ 0#3 → t.crcStream = []) ∧
    (statusErr t.status = 0#3 → i ≠ .encStr → ∃ hdr, readBytes t.mem.hdr 32 0 = some hdr ∧
      t.crcStream = [crcScope hdr] ∧ (crcScope hdr).length = 28) ∧
    (statusErr t.status = 0#3 → i = .encStr → ∃ hdr payload, readBytes t.mem.hdr 32 0 = some hdr ∧
      readBytes t.mem.data (r.vlen.toNat + 1) 0 = some payload ∧ t.crcStream = [payload, crcScope hdr] ∧
      (crcScope hdr).length = 28 ∧ payload.length = r.vlen.toNat + 1 ∧ payload.length ≤ 4000 ∧
      slice (crcScope hdr) 24 28 = (Config.hardware.crc32 payload).toList) ∧
    (∀ call ∈ t.crcStream, call ≠ [])

/-! ## The sub-blocks -/

/-- R134: the key field is injective on keys without a zero byte, and not on all keys. -/
def Obligations.KeyFieldIsInjectiveWithoutZeroBytes : Prop :=
  (∀ k k' : List Byte, k.length ≤ 15 → k'.length ≤ 15 → (0x00#8 ∉ k) → (0x00#8 ∉ k') → keyField k = keyField k' → k = k') ∧
  keyField [0x61#8] = keyField [0x61#8, 0x00#8]

/-- R140, R141: only the low `8 w` bits of the number reach the data field, and under `InRange` the value can be read
back from its `w` bytes. The truncation itself is the spec's decision D7 (log entry 15). -/
def Obligations.InRangeValuesCanBeReadBack : Prop :=
  (∀ (w v v' : Nat), v % 2 ^ (8 * w) = v' % 2 ^ (8 * w) → numField w v = numField w v') ∧
  (∀ (i : Instr) (w : Nat) (v : BitVec 64), i.width = some w → inRange i v →
    readBack i (numField w v.toNat) = some (operandValue i v))

/-- R54: the whole data field as one little-endian integer has the value in its low `8 w` bits and all ones above; for an
in-range negative value of a signed type it equals the sign-extended value, for a non-negative value of a type narrower
than 64 bits it does not. -/
def Obligations.WholeDataFieldAsOneInteger : Prop :=
  ∀ (i : Instr) (w : Nat) (v : BitVec 64), i.width = some w →
    leValue (numField w v.toNat) = v.toNat % 2 ^ (8 * w) + (2 ^ 64 - 2 ^ (8 * w)) ∧
    (i.signed = some true → inRange i v → v.toInt < 0 → leValue (numField w v.toNat) = v.toNat) ∧
    (w < 8 → 0 ≤ v.toInt → leValue (numField w v.toNat) ≠ v.toNat)

/-- R183: the ranges of span, data-buffer length and padding for every legal payload length. -/
def Obligations.SpanAndLengthRanges : Prop :=
  ∀ l : Nat, 1 ≤ l → l ≤ 4000 →
    2 ≤ stringSpan l ∧ stringSpan l ≤ 126 ∧ 32 ≤ dataLength (stringSpan l) ∧ dataLength (stringSpan l) ≤ 4000 ∧
    (stringSpan l = 2 ↔ l ≤ 32) ∧ (stringSpan l = 126 ↔ 3969 ≤ l) ∧
    l ≤ dataLength (stringSpan l) ∧ dataLength (stringSpan l) < l + 32 ∧ dataLength (stringSpan l) % 32 = 0 ∧
    (dataLength (stringSpan l) - l = 0 ↔ l % 32 = 0) ∧ (dataLength (stringSpan l) - l = 31 ↔ l % 32 = 1) ∧
    64 ≤ stringSpan l * 32 ∧ stringSpan l * 32 ≤ 4032

/-- R184, R163: the block counter, producing the data blocks one by one from block 1 on, builds the data buffer of R163. -/
def Obligations.BlockCounterBuildsTheDataBuffer : Prop :=
  ∀ payload : List Byte, payload ≠ [] →
    produceBlocks payload (stringSpan payload.length - 1) 1 = dataBuffer payload

/-- R164: data block `k` is `DATA[(k-1)*32 .. k*32)`; all but the last are full of payload; the last holds the
remaining payload bytes, between 1 and 32 of them, then padding. -/
def Obligations.ChunkingIntoBlocks : Prop :=
  ∀ (text hdr : List Byte), text.length ≤ 3999 → hdr.length = 32 →
    let payload := payloadOf text
    let l := payload.length
    let span := stringSpan l
    let data := dataBuffer payload
    (∀ k, 1 ≤ k → k ≤ span - 1 → entryBlock hdr data k = slice data ((k - 1) * 32) (k * 32)) ∧
    (∀ k, 1 ≤ k → k ≤ span - 2 → slice data ((k - 1) * 32) (k * 32) = slice payload ((k - 1) * 32) (k * 32)) ∧
    slice data ((span - 2) * 32) ((span - 1) * 32) =
      slice payload ((span - 2) * 32) l ++ rep 0xFF#8 ((span - 1) * 32 - l) ∧
    1 ≤ l - (span - 2) * 32 ∧ l - (span - 2) * 32 ≤ 32 ∧ payload[l - 1]? = some 0x00#8 ∧ entryBlock hdr data 0 = hdr

/-- R166: the eight bytes of a string's data field. -/
def Obligations.StringDataFieldBytes : Prop :=
  ∀ (l : Nat) (pcrc : List Byte), 1 ≤ l → l ≤ 4000 → pcrc.length = 4 →
    (stringField l pcrc)[0]? = some (BitVec.ofNat 8 (l % 256)) ∧
    (stringField l pcrc)[1]? = some (BitVec.ofNat 8 (l / 256)) ∧
    (stringField l pcrc)[2]? = some 0xFF#8 ∧ (stringField l pcrc)[3]? = some 0xFF#8 ∧
    slice (stringField l pcrc) 4 8 = pcrc ∧ (stringField l pcrc).length = 8 ∧ l / 256 ≤ 0x0F

/-- R197: what stands in header bytes 4 to 7 before the checksum is written does not matter. -/
def Obligations.UnwrittenChecksumBytesDoNotMatter : Prop :=
  ∀ (ns type span : Byte) (x y kf df hcrc : List Byte), x.length = 4 → y.length = 4 → hcrc.length = 4 →
    crcScope (packHeader ns type span x kf df) = crcScope (packHeader ns type span y kf df) ∧
    storeHeaderCrc (packHeader ns type span x kf df) hcrc = storeHeaderCrc (packHeader ns type span y kf df) hcrc

/-- R210: the 28 bytes of the scope, one by one. -/
def Obligations.ScopeIsTheHeaderWithoutItsChecksum : Prop :=
  ∀ hdr : List Byte, hdr.length = 32 →
    (crcScope hdr).length = 28 ∧ crcScope hdr = slice hdr 0 4 ++ slice hdr 8 32 ∧
    ∀ i, i < 28 → (crcScope hdr)[i]? = hdr[if i < 4 then i else i + 4]?

/-- R66, R67: the check values of the two checksum instances. -/
def Obligations.ChecksumCheckValues : Prop :=
  (crcA [0x31#8, 0x32#8, 0x33#8, 0x34#8, 0x35#8, 0x36#8, 0x37#8, 0x38#8, 0x39#8]).toList = [0x26#8, 0x39#8, 0xF4#8, 0xCB#8] ∧
  (crcA []).toList = [0x00#8, 0x00#8, 0x00#8, 0x00#8] ∧
  (crcA [0x61#8, 0x62#8, 0x00#8]).toList = [0x20#8, 0x71#8, 0x9F#8, 0xE1#8] ∧
  (crcB [0x31#8, 0x32#8, 0x33#8, 0x34#8, 0x35#8, 0x36#8, 0x37#8, 0x38#8, 0x39#8]).toList = [0x77#8, 0xD2#8, 0x02#8, 0xD2#8] ∧
  (crcB []).toList = [0xFF#8, 0xFF#8, 0xFF#8, 0xFF#8] ∧
  (crcB [0x61#8, 0x62#8, 0x00#8]).toList = [0xCD#8, 0x57#8, 0x21#8, 0xE1#8]

/-- U15, R12: both checksum instances detect every single-bit change, in sequences of any length. -/
def Obligations.ChecksumsDetectEverySingleBitChange : Prop :=
  SingleBitDetect crcA ∧ SingleBitDetect crcB

/-- R9: an instance with another block size is refused, for every operation and every step in every state (log entry 3). -/
def Obligations.OtherBlockSizesAreRefused : Prop :=
  ∀ (c : Config) (i : Instr) (s : State), c.blockSize ≠ 32 →
    completeAs c i s = .refused .unsupportedBlockSize ∧ stepAt c s = .refused .unsupportedBlockSize

/-! ## The host's side -/

/-- R116: START in IDLE or DONE takes the Request, sets BUSY, clears DONE and ERR and discards the response, whatever the
ports and buffers hold; a START while BUSY has no effect. Of a port that the host has written the Request has the value
written; of one that it has not, whatever the port shows (R40; log entry 9). -/
def Obligations.StartTakesTheRequest : Prop :=
  (∀ s : State, phaseOf s.status ≠ .busy →
    ∃ t, hostMove .start s = .next t ∧
      t.taken = some (requestOf s) ∧ (requestOf s).key = s.mem.key ∧ (requestOf s).vbuf = s.mem.vbuf ∧
      (s.written.ns = true → (requestOf s).ns = s.reqNs) ∧ (s.written.type = true → (requestOf s).type = s.reqType) ∧
      (s.written.klen = true → (requestOf s).klen = s.reqKlen) ∧
      (s.written.vkind = true → (requestOf s).vkind = s.reqVkind) ∧
      (s.written.vnum = true → (requestOf s).vnum = s.reqVnum) ∧
      (s.written.vlen = true → (requestOf s).vlen = s.reqVlen) ∧
      statusBusy t.status = true ∧ statusDone t.status = false ∧ statusErr t.status = 0#3 ∧ phaseOf t.status = .busy ∧
      (∀ a, readByte t.mem.hdr a = none) ∧ (∀ a, readByte t.mem.data a = none) ∧ t.rspSpan = none ∧ t.rspDlen = none ∧
      requestOf t = requestOf s ∧ t.written = s.written ∧ t.pending = s.pending ∧ t.readout = s.readout) ∧
  (∀ s : State, phaseOf s.status = .busy → hostMove .start s = .next s)

/-- R252, for KEY and VBUF: "A field the block reads that the host has never written holds no value, and a model faults on
the read": the block's turn in BUSY stops with a named fault when an accepted operation reads a byte that was never
written, and ends the operation in phase DONE when every byte it reads was (log entry 6). A byte it does not read need not
be written. That it ends so whichever ports were written is the model's choice (log entry 9, DESIGN CHOICE): R252, U7 and
D15 have a model fault on a port never written too. -/
def Obligations.CompleteNeedsTheBytesTheOperationReads : Prop :=
  ∀ (s : State) (r : Request), phaseOf s.status = .busy → s.taken = some r →
    (∀ i, selectType defaultTagCode r.type = some i → validateFor i r = none →
      (∀ j, j < r.klen.toNat → readByte r.key j = none → blockTurn s = .fault .requestByteHoldsNoValue) ∧
      (∀ j, i = .encStr → j < r.vlen.toNat → readByte r.vbuf j = none →
        blockTurn s = .fault .requestByteHoldsNoValue)) ∧
    ((∀ i, selectType defaultTagCode r.type = some i → validateFor i r = none →
      (∀ j, j < r.klen.toNat → (readByte r.key j).isSome = true) ∧
        (i = .encStr → ∀ j, j < r.vlen.toNat → (readByte r.vbuf j).isSome = true)) →
      ∃ t, blockTurn s = .next t ∧ phaseOf t.status = .done)

/-- R40, R252: what the register of a port holds while the host has never written the port reaches nobody: in two states
that differ in such registers only, START takes the same Request and every read of the host returns the same. That the
port then shows a free value, where R252 and U7 have a model fault on the block's read, is the model's (log entry 9). -/
def Obligations.NoUnwrittenPortReachesTheBlockOrTheHost : Prop :=
  ∀ (s : State) (ns type klen : BitVec 8) (vkind : BitVec 1) (vnum : BitVec 64) (vlen : BitVec 16),
    let s' : State := { s with
      reqNs := if s.written.ns then s.reqNs else ns
      reqType := if s.written.type then s.reqType else type
      reqKlen := if s.written.klen then s.reqKlen else klen
      reqVkind := if s.written.vkind then s.reqVkind else vkind
      reqVnum := if s.written.vnum then s.reqVnum else vnum
      reqVlen := if s.written.vlen then s.reqVlen else vlen }
    (∀ t, phaseOf s.status ≠ .busy → hostMove .start s = .next t →
      ∃ t', hostMove .start s' = .next t' ∧ t'.taken = t.taken ∧ t'.status = t.status ∧ t'.mem = t.mem) ∧
    (∀ (m : HostMove) (t : State),
      m ∈ [.readNs, .readType, .readKlen, .readVkind, .readVnum, .readVlen, .readStatus, .readSpan, .readDlen] ∨
        (∃ a, m = .readKey a ∨ m = .readVbuf a ∨ m = .readHdr a ∨ m = .readData a) →
      hostMove m s = .next t → ∃ t', hostMove m s' = .next t' ∧ t'.readout = t.readout)

/-- R34, R254, R31, R32: the host reads the response, HDR, RSP_SPAN, RSP_DLEN and DATA below RSP_DLEN, exactly when DONE
with ERR 0; every other read of them stops. The premise is the invariant, which rules out states that no run reaches. -/
def Obligations.ResponseReadsFaultWithoutAValue : Prop :=
  ∀ s : State, Inv s →
    (statusSucceeded s.status = false →
      (∀ a, a < 32 → hostMove (.readHdr a) s = .fault .responseHoldsNoValue) ∧
      (∀ a, a < 4000 → hostMove (.readData a) s = .fault .responseHoldsNoValue) ∧
      hostMove .readSpan s = .fault .responseHoldsNoValue ∧ hostMove .readDlen s = .fault .responseHoldsNoValue) ∧
    (statusSucceeded s.status = true →
      (∀ a, a < 32 → ∃ v, readByte s.mem.hdr a = some v ∧ hostMove (.readHdr a) s = .next (hostSees (.byte v) s)) ∧
      (∃ v, s.rspSpan = some v ∧ readByte s.mem.hdr 2 = some v ∧ hostMove .readSpan s = .next (hostSees (.byte v) s)) ∧
      ∃ d, s.rspDlen = some d ∧ hostMove .readDlen s = .next (hostSees (.half d) s) ∧
        (∀ a, a < d.toNat → ∃ v, readByte s.mem.data a = some v ∧ hostMove (.readData a) s = .next (hostSees (.byte v) s)) ∧
        (∀ a, d.toNat ≤ a → a < 4000 → hostMove (.readData a) s = .fault .responseHoldsNoValue))

/-- R57: a read of the host changes nothing but what the host has read (log entry 11), and reading again returns the same;
in every phase STATUS (R33), the six request ports and every byte of KEY and VBUF that holds a value can be read; the read
of a port returns what the Request taken from it has (R21), for a port once written the value written. That the ports, KEY
and VBUF can be read in every phase, BUSY too, is the model's (log entry 10, DEDUCED: the table of R118 lists reads of
STATUS and of the response only, and for BUSY only STATUS); that a port which was never written shows a free value, the
same at each read, is log entry 9 (DESIGN CHOICE). -/
def Obligations.HostReadsHaveNoSideEffect : Prop :=
  (∀ (m : HostMove) (s t : State),
    m ∈ [.readNs, .readType, .readKlen, .readVkind, .readVnum, .readVlen, .readStatus, .readSpan, .readDlen] ∨
      (∃ a, m = .readKey a ∨ m = .readVbuf a ∨ m = .readHdr a ∨ m = .readData a) →
    hostMove m s = .next t → t = { s with readout := t.readout } ∧ hostMove m t = .next t) ∧
  (∀ s : State,
    hostMove .readStatus s = .next (hostSees (.byte s.status) s) ∧
    hostMove .readNs s = .next (hostSees (.byte (requestOf s).ns) s) ∧
      (s.written.ns = true → (requestOf s).ns = s.reqNs) ∧
    hostMove .readType s = .next (hostSees (.byte (requestOf s).type) s) ∧
      (s.written.type = true → (requestOf s).type = s.reqType) ∧
    hostMove .readKlen s = .next (hostSees (.byte (requestOf s).klen) s) ∧
      (s.written.klen = true → (requestOf s).klen = s.reqKlen) ∧
    hostMove .readVkind s = .next (hostSees (.bit (requestOf s).vkind) s) ∧
      (s.written.vkind = true → (requestOf s).vkind = s.reqVkind) ∧
    hostMove .readVnum s = .next (hostSees (.long (requestOf s).vnum) s) ∧
      (s.written.vnum = true → (requestOf s).vnum = s.reqVnum) ∧
    hostMove .readVlen s = .next (hostSees (.half (requestOf s).vlen) s) ∧
      (s.written.vlen = true → (requestOf s).vlen = s.reqVlen) ∧
    (∀ a v, a < 16 → readByte s.mem.key a = some v → hostMove (.readKey a) s = .next (hostSees (.byte v) s)) ∧
    (∀ a v, a < 3999 → readByte s.mem.vbuf a = some v → hostMove (.readVbuf a) s = .next (hostSees (.byte v) s)))

/-- R62, R118: while BUSY every host write of the request side stops; in IDLE and DONE a write changes its port or byte,
which a read then returns, and nothing of the response. -/
def Obligations.HostWritesOutsideBusyOnly : Prop :=
  ∀ s : State,
    (phaseOf s.status = .busy →
      (∀ v, hostMove (.writeNs v) s = .fault .hostWriteWhileBusy) ∧
      (∀ v, hostMove (.writeType v) s = .fault .hostWriteWhileBusy) ∧
      (∀ v, hostMove (.writeKlen v) s = .fault .hostWriteWhileBusy) ∧
      (∀ v, hostMove (.writeVkind v) s = .fault .hostWriteWhileBusy) ∧
      (∀ v, hostMove (.writeVnum v) s = .fault .hostWriteWhileBusy) ∧
      (∀ v, hostMove (.writeVlen v) s = .fault .hostWriteWhileBusy) ∧
      (∀ a v, a < 16 → hostMove (.writeKey a v) s = .fault .hostWriteWhileBusy) ∧
      (∀ a v, a < 3999 → hostMove (.writeVbuf a v) s = .fault .hostWriteWhileBusy)) ∧
    (phaseOf s.status ≠ .busy →
      (∀ v, ∃ t, hostMove (.writeNs v) s = .next t ∧ t = { s with reqNs := v, written := { s.written with ns := true } } ∧
        hostMove .readNs t = .next (hostSees (.byte v) t)) ∧
      (∀ v, ∃ t, hostMove (.writeType v) s = .next t ∧ t = { s with reqType := v, written := { s.written with type := true } } ∧
        hostMove .readType t = .next (hostSees (.byte v) t)) ∧
      (∀ v, ∃ t, hostMove (.writeKlen v) s = .next t ∧ t = { s with reqKlen := v, written := { s.written with klen := true } } ∧
        hostMove .readKlen t = .next (hostSees (.byte v) t)) ∧
      (∀ v, ∃ t, hostMove (.writeVkind v) s = .next t ∧ t = { s with reqVkind := v, written := { s.written with vkind := true } } ∧
        hostMove .readVkind t = .next (hostSees (.bit v) t)) ∧
      (∀ v, ∃ t, hostMove (.writeVnum v) s = .next t ∧ t = { s with reqVnum := v, written := { s.written with vnum := true } } ∧
        hostMove .readVnum t = .next (hostSees (.long v) t)) ∧
      (∀ v, ∃ t, hostMove (.writeVlen v) s = .next t ∧ t = { s with reqVlen := v, written := { s.written with vlen := true } } ∧
        hostMove .readVlen t = .next (hostSees (.half v) t)) ∧
      (∀ a v, a < 16 → ∃ t, hostMove (.writeKey a v) s = .next t ∧ readByte t.mem.key a = some v ∧
        (∀ b, b ≠ a → readByte t.mem.key b = readByte s.mem.key b) ∧
        t = { s with mem := { s.mem with key := t.mem.key } } ∧ hostMove (.readKey a) t = .next (hostSees (.byte v) t)) ∧
      (∀ a v, a < 3999 → ∃ t, hostMove (.writeVbuf a v) s = .next t ∧ readByte t.mem.vbuf a = some v ∧
        (∀ b, b ≠ a → readByte t.mem.vbuf b = readByte s.mem.vbuf b) ∧
        t = { s with mem := { s.mem with vbuf := t.mem.vbuf } } ∧ hostMove (.readVbuf a) t = .next (hostSees (.byte v) t)))

/-- R231, R33: ERR and DONE stay until the next START or RESET. -/
def Obligations.ErrorStaysUntilStartOrReset : Prop :=
  ∀ s t : State, phaseOf s.status = .done → s.pending.head? ≠ some (.host .start) → s.pending.head? ≠ some (.host .reset) →
    step s = .next t → t.status = s.status ∧ t.mem.hdr = s.mem.hdr ∧ t.mem.data = s.mem.data ∧ t.rspSpan = s.rspSpan ∧
      t.rspDlen = s.rspDlen

/-- R94: one line of the textual form, run from any state of the invariant that is not BUSY, writes the request ports,
starts the operation and reaches DONE with what `Encode` returns for the Request the line writes. A line is the
model's data form of R94 (log entry 23). -/
def Obligations.OneLineRunsToDone : Prop :=
  ∀ (l : Line) (s : State), l.wellFormed = true → Inv s → phaseOf s.status ≠ .busy → s.pending = l.turns →
    ∃ t, runSteps l.turns.length s = .next t ∧ t.pending = [] ∧ Inv t ∧
      match l with
      | .reset => phaseOf t.status = .idle
      | .enc i ns key value => LineResult (Config.hardware.tagCode i) ns key value t
      | .raw code ns key value => LineResult (BitVec.ofNat 8 code) ns key value t
end

