-- ==== Sys2Proof/Laws/Memory.lean ====
section
/-!
SUPPORT. The laws of the byte buffers: read after write, the canonical form and that every operation keeps it.
-/

namespace Sys2Proof.Machine

theorem readByte_nil (a : Nat) : readByte [] a = none := rfl

/-- Nothing below the lower bound of a canonical buffer holds a value. -/
theorem readByte_below {low size a : Nat} : ∀ {m : Buffer}, risingFrom low size m = true → a < low → readByte m a = none
  | [], _, _ => rfl
  | (x, v) :: rest, h, ha => by
    simp only [risingFrom, Bool.and_eq_true, decide_eq_true_eq] at h
    have hx : x ≠ a := by omega
    simp only [readByte, hx, if_false]
    exact readByte_below h.2 (by omega)

/-- A canonical buffer holds no value at an offset that does not exist. -/
theorem readByte_outside {low size a : Nat} : ∀ {m : Buffer}, risingFrom low size m = true → size ≤ a → readByte m a = none
  | [], _, _ => rfl
  | (x, v) :: rest, h, ha => by
    simp only [risingFrom, Bool.and_eq_true, decide_eq_true_eq] at h
    have hx : x ≠ a := by omega
    simp only [readByte, hx, if_false]
    exact readByte_outside h.2 ha

/-- A read after a write to the same offset gives the byte written. -/
@[simp] theorem readByte_writeByte_same (m : Buffer) (a : Nat) (v : Byte) : readByte (writeByte m a v) a = some v := by
  induction m with
  | nil => simp [writeByte, readByte]
  | cons p rest ih =>
    obtain ⟨x, w⟩ := p
    by_cases h1 : a < x
    · simp [writeByte, h1, readByte]
    · by_cases h2 : a = x
      · simp [writeByte, h2, readByte]
      · have h3 : x ≠ a := fun e => h2 e.symm
        simp [writeByte, h1, h2, readByte, h3, ih]

/-- A write leaves every other offset alone. -/
theorem readByte_writeByte_other (m : Buffer) {a b : Nat} (v : Byte) (h : b ≠ a) :
    readByte (writeByte m a v) b = readByte m b := by
  have h' : a ≠ b := fun e => h e.symm
  induction m with
  | nil => simp [writeByte, readByte, h']
  | cons p rest ih =>
    obtain ⟨x, w⟩ := p
    by_cases h1 : a < x
    · simp [writeByte, h1, readByte, h']
    · by_cases h2 : a = x
      · subst h2
        simp [writeByte, readByte, h']
      · simp [writeByte, h1, h2, readByte, ih]

/-- A write of an offset that exists keeps the canonical form. -/
theorem risingFrom_writeByte {low size a : Nat} (v : Byte) : ∀ {m : Buffer},
    risingFrom low size m = true → low ≤ a → a < size → risingFrom low size (writeByte m a v) = true
  | [], _, hl, hs => by simp [writeByte, risingFrom, hl, hs]
  | (x, w) :: rest, h, hl, hs => by
    simp only [risingFrom, Bool.and_eq_true, decide_eq_true_eq] at h
    obtain ⟨⟨hx, hxs⟩, hr⟩ := h
    unfold writeByte
    split
    · rename_i hax
      simp only [risingFrom, Bool.and_eq_true, decide_eq_true_eq]
      exact ⟨⟨hl, hs⟩, ⟨by omega, hxs⟩, hr⟩
    · split
      · rename_i hax
        subst hax
        simp only [risingFrom, Bool.and_eq_true, decide_eq_true_eq]
        exact ⟨⟨hl, hs⟩, hr⟩
      · simp only [risingFrom, Bool.and_eq_true, decide_eq_true_eq]
        exact ⟨⟨hx, hxs⟩, risingFrom_writeByte v hr (by omega) hs⟩

/-- The buffer of a byte sequence is canonical. -/
theorem risingFrom_bytesAt (size : Nat) : ∀ (bytes : List Byte) (low a : Nat),
    low ≤ a → a + bytes.length ≤ size → risingFrom low size (bytesAt a bytes) = true
  | [], _, _, _, _ => rfl
  | v :: vs, low, a, hl, hs => by
    simp only [List.length_cons] at hs
    simp only [bytesAt, risingFrom, Bool.and_eq_true, decide_eq_true_eq]
    exact ⟨⟨hl, by omega⟩, risingFrom_bytesAt size vs (a + 1) (a + 1) (Nat.le_refl _) (by omega)⟩

/-- Reading the buffer of a byte sequence gives its bytes, and nothing outside them. -/
theorem readByte_bytesAt : ∀ (bytes : List Byte) (a b : Nat),
    readByte (bytesAt a bytes) b = if a ≤ b then bytes[b - a]? else none
  | [], a, b => by simp [bytesAt, readByte]
  | v :: vs, a, b => by
    by_cases h : a = b
    · simp [bytesAt, readByte, h]
    · by_cases h2 : a ≤ b
      · have h3 : b - a = (b - (a + 1)) + 1 := by omega
        have h4 : a + 1 ≤ b := by omega
        simp [bytesAt, readByte, h, readByte_bytesAt vs (a + 1) b, h2, h4, h3]
      · have h4 : ¬ a + 1 ≤ b := by omega
        simp [bytesAt, readByte, h, readByte_bytesAt vs (a + 1) b, h2, h4]

/-- The same from offset 0. -/
@[simp] theorem readByte_bytesAt_zero (bytes : List Byte) (b : Nat) : readByte (bytesAt 0 bytes) b = bytes[b]? := by
  simp [readByte_bytesAt]

@[simp] theorem length_bytesAt : ∀ (bytes : List Byte) (a : Nat), (bytesAt a bytes).length = bytes.length
  | [], _ => rfl
  | _ :: vs, a => by simp [bytesAt, length_bytesAt vs (a + 1)]

/-- The buffer of a byte sequence determines the sequence. -/
theorem bytesAt_injective : ∀ (xs ys : List Byte) (a : Nat), bytesAt a xs = bytesAt a ys → xs = ys
  | [], [], _, _ => rfl
  | [], _ :: _, _, h => by simp [bytesAt] at h
  | _ :: _, [], _, h => by simp [bytesAt] at h
  | x :: xs, y :: ys, a, h => by
    simp only [bytesAt, List.cons.injEq, Prod.mk.injEq, true_and] at h
    rw [h.1, bytesAt_injective xs ys (a + 1) h.2]

/-- What a read of several bytes answers: `n` bytes, each the byte held at its offset. -/
theorem readBytes_eq_some : ∀ {m : Buffer} {n a : Nat} {bytes : List Byte}, readBytes m n a = some bytes →
    bytes.length = n ∧ ∀ j, j < n → readByte m (a + j) = bytes[j]?
  | m, 0, a, bytes, h => by
    simp only [readBytes, Option.some.injEq] at h
    subst h
    exact ⟨rfl, fun j hj => absurd hj (Nat.not_lt_zero j)⟩
  | m, n + 1, a, bytes, h => by
    unfold readBytes at h
    split at h
    · exact absurd h (by simp)
    · rename_i v hv
      simp only [Option.map_eq_some_iff] at h
      obtain ⟨vs, hvs, rfl⟩ := h
      obtain ⟨hl, hr⟩ := readBytes_eq_some hvs
      refine ⟨by simp [hl], fun j hj => ?_⟩
      cases j with
      | zero => simpa using hv
      | succ j =>
        have := hr j (by omega)
        simpa [Nat.add_assoc, Nat.add_comm 1 j] using this

/-- A read of several bytes succeeds when each of them holds a value. -/
theorem readBytes_isSome : ∀ {m : Buffer} {n a : Nat}, (∀ j, j < n → (readByte m (a + j)).isSome = true) →
    (readBytes m n a).isSome = true
  | m, 0, a, _ => rfl
  | m, n + 1, a, h => by
    have h0 := h 0 (by omega)
    rw [Nat.add_zero] at h0
    obtain ⟨v, hv⟩ := Option.isSome_iff_exists.mp h0
    have hr : (readBytes m n (a + 1)).isSome = true :=
      readBytes_isSome fun j hj => by
        have := h (j + 1) (by omega)
        rwa [show a + (j + 1) = a + 1 + j by omega] at this
    simp [readBytes, hv, hr]

/-- Two buffers that hold the same values at the offsets read give the same bytes. -/
theorem readBytes_congr : ∀ {m m' : Buffer} {n a : Nat}, (∀ j, j < n → readByte m (a + j) = readByte m' (a + j)) →
    readBytes m n a = readBytes m' n a
  | _, _, 0, _, _ => rfl
  | m, m', n + 1, a, h => by
    have h0 := h 0 (by omega)
    rw [Nat.add_zero] at h0
    have hr : readBytes m n (a + 1) = readBytes m' n (a + 1) :=
      readBytes_congr fun j hj => by
        have := h (j + 1) (by omega)
        rwa [show a + (j + 1) = a + 1 + j by omega] at this
    simp [readBytes, h0, hr]

/-- Reading back the buffer of a byte sequence. -/
theorem readBytes_bytesAt (bytes : List Byte) : readBytes (bytesAt 0 bytes) bytes.length 0 = some bytes := by
  have h : (readBytes (bytesAt 0 bytes) bytes.length 0).isSome = true :=
    readBytes_isSome fun j hj => by simp [hj]
  obtain ⟨r, hr⟩ := Option.isSome_iff_exists.mp h
  obtain ⟨hl, hb⟩ := readBytes_eq_some hr
  rw [hr]
  congr 1
  apply List.ext_getElem?
  intro j
  by_cases hj : j < bytes.length
  · have := hb j hj
    simpa using this.symm
  · rw [List.getElem?_eq_none (by omega), List.getElem?_eq_none (by omega)]

end Sys2Proof.Machine
end

