-- ==== Sys2Proof/Laws/Sequences.lean ====
section
/-!
SUPPORT. The small lemmas of the sequence operators and of the fields built from them.
-/

namespace Sys2Proof.Machine

@[simp] theorem length_rep (b : Byte) (n : Nat) : (rep b n).length = n := by simp [rep]

@[simp] theorem rep_zero (b : Byte) : rep b 0 = [] := rfl

theorem getElem?_rep (b : Byte) (n j : Nat) : (rep b n)[j]? = if j < n then some b else none := by
  simp [rep, List.getElem?_replicate]

@[simp] theorem length_leBytes : ∀ (n v : Nat), (leBytes n v).length = n
  | 0, _ => rfl
  | n + 1, v => by simp [leBytes, length_leBytes n]

/-- Byte `j` of `le_n(v)` (00_scope.md R15). -/
theorem getElem?_leBytes : ∀ (n v j : Nat), j < n → (leBytes n v)[j]? = some (BitVec.ofNat 8 (v / 256 ^ j))
  | 0, _, j, h => absurd h (Nat.not_lt_zero j)
  | n + 1, v, 0, _ => by simp [leBytes]
  | n + 1, v, j + 1, h => by
    have ih := getElem?_leBytes n (v / 256) j (by omega)
    simp only [leBytes, List.getElem?_cons_succ, ih, Nat.div_div_eq_div_mul]
    rw [show 256 * 256 ^ j = 256 ^ (j + 1) by rw [Nat.pow_succ, Nat.mul_comm]]

/-- Little-endian bytes read back (20_memory.md R52). -/
theorem leValue_leBytes : ∀ (n v : Nat), leValue (leBytes n v) = v % 256 ^ n
  | 0, v => by simp [leBytes, leValue, Nat.mod_one]
  | n + 1, v => by
    simp only [leBytes, leValue, leValue_leBytes n, BitVec.toNat_ofNat]
    rw [show (256 : Nat) ^ (n + 1) = 256 * 256 ^ n by rw [Nat.pow_succ, Nat.mul_comm], Nat.mod_mul]

@[simp] theorem length_keyField {key : List Byte} (h : key.length ≤ 15) : (keyField key).length = 16 := by
  simp [keyField]
  omega

theorem getElem?_keyField (key : List Byte) (j : Nat) (hj : j < 16) :
    (keyField key)[j]? = if j < key.length then key[j]? else some 0x00#8 := by
  unfold keyField
  by_cases h : j < key.length
  · simp [h, List.getElem?_append]
  · by_cases h2 : j = key.length
    · simp [h2]
    · rw [List.getElem?_append_right (by simp; omega), getElem?_rep]
      simp [h]
      omega

@[simp] theorem length_numField {w : Nat} (v : Nat) (h : w ≤ 8) : (numField w v).length = 8 := by
  simp [numField]
  omega

@[simp] theorem length_stringField (l : Nat) (pcrc : List Byte) : (stringField l pcrc).length = 4 + pcrc.length := by
  simp [stringField]
  omega

@[simp] theorem length_payloadOf (text : List Byte) : (payloadOf text).length = text.length + 1 := by simp [payloadOf]

/-- A span in terms of the payload length (44_block_counter.md R180). -/
theorem stringSpan_eq (l : Nat) : stringSpan l = 1 + (l + 31) / 32 := by
  simp [stringSpan, ceilDiv]

/-- A data-buffer length in terms of the payload length (R182). -/
theorem dataLength_stringSpan (l : Nat) : dataLength (stringSpan l) = (l + 31) / 32 * 32 := by
  simp [stringSpan_eq, dataLength]

/-- The padded buffer has the data-buffer length (R182, R183). -/
@[simp] theorem length_dataBuffer (payload : List Byte) :
    (dataBuffer payload).length = dataLength (stringSpan payload.length) := by
  simp only [dataBuffer, List.length_append, length_rep, dataLength_stringSpan]
  omega

@[simp] theorem length_packHeader (ns type span : Byte) (unwritten kf df : List Byte) :
    (packHeader ns type span unwritten kf df).length = 4 + unwritten.length + kf.length + df.length := by
  simp only [packHeader, List.length_append, List.length_cons, List.length_nil]

/-- The scope skips exactly the four bytes of the checksum field (46_crc_scope.md R210). -/
theorem crcScope_packHeader (ns type span : Byte) {unwritten : List Byte} (kf df : List Byte) (h : unwritten.length = 4) :
    crcScope (packHeader ns type span unwritten kf df) = [ns, type, span, chunkNone] ++ kf ++ df := by
  match unwritten, h with
  | [a, b, c, d], _ => simp [crcScope, packHeader]

/-- Storing the checksum field replaces exactly those four bytes (R213). -/
theorem storeHeaderCrc_packHeader (ns type span : Byte) {unwritten : List Byte} (hcrc kf df : List Byte)
    (h : unwritten.length = 4) :
    storeHeaderCrc (packHeader ns type span unwritten kf df) hcrc = packHeader ns type span hcrc kf df := by
  match unwritten, h with
  | [a, b, c, d], _ => simp [storeHeaderCrc, packHeader]

/-- The checksum field of a packed header. -/
theorem crcField_packHeader (ns type span : Byte) {hcrc : List Byte} (kf df : List Byte) (h : hcrc.length = 4) :
    crcField (packHeader ns type span hcrc kf df) = hcrc := by
  match hcrc, h with
  | [a, b, c, d], _ => simp [crcField, packHeader]

end Sys2Proof.Machine
end

