-- ==== Sys2Proof/Laws/State.lean ====
section
/-!
SUPPORT. One lemma per field per state update, each true by rfl, so that no proof unfolds a record update.
-/

namespace Sys2Proof.Machine

/-! ### discardResponse -/

@[simp] theorem discardResponse_reqNs (s : State) : (discardResponse s).reqNs = s.reqNs := rfl
@[simp] theorem discardResponse_reqType (s : State) : (discardResponse s).reqType = s.reqType := rfl
@[simp] theorem discardResponse_reqKlen (s : State) : (discardResponse s).reqKlen = s.reqKlen := rfl
@[simp] theorem discardResponse_reqVkind (s : State) : (discardResponse s).reqVkind = s.reqVkind := rfl
@[simp] theorem discardResponse_reqVnum (s : State) : (discardResponse s).reqVnum = s.reqVnum := rfl
@[simp] theorem discardResponse_reqVlen (s : State) : (discardResponse s).reqVlen = s.reqVlen := rfl
@[simp] theorem discardResponse_written (s : State) : (discardResponse s).written = s.written := rfl
@[simp] theorem discardResponse_pending (s : State) : (discardResponse s).pending = s.pending := rfl
@[simp] theorem discardResponse_readout (s : State) : (discardResponse s).readout = s.readout := rfl
@[simp] theorem discardResponse_mem_key (s : State) : (discardResponse s).mem.key = s.mem.key := rfl
@[simp] theorem discardResponse_mem_vbuf (s : State) : (discardResponse s).mem.vbuf = s.mem.vbuf := rfl
@[simp] theorem discardResponse_mem_hdr (s : State) : (discardResponse s).mem.hdr = [] := rfl
@[simp] theorem discardResponse_mem_data (s : State) : (discardResponse s).mem.data = [] := rfl
@[simp] theorem discardResponse_rspSpan (s : State) : (discardResponse s).rspSpan = none := rfl
@[simp] theorem discardResponse_rspDlen (s : State) : (discardResponse s).rspDlen = none := rfl
@[simp] theorem discardResponse_crcStream (s : State) : (discardResponse s).crcStream = [] := rfl
@[simp] theorem discardResponse_status (s : State) : (discardResponse s).status = s.status := rfl
@[simp] theorem discardResponse_taken (s : State) : (discardResponse s).taken = s.taken := rfl
@[simp] theorem discardResponse_work (s : State) : (discardResponse s).work = s.work := rfl

/-! ### startOperation -/

@[simp] theorem startOperation_reqNs (s : State) : (startOperation s).reqNs = s.reqNs := rfl
@[simp] theorem startOperation_reqType (s : State) : (startOperation s).reqType = s.reqType := rfl
@[simp] theorem startOperation_reqKlen (s : State) : (startOperation s).reqKlen = s.reqKlen := rfl
@[simp] theorem startOperation_reqVkind (s : State) : (startOperation s).reqVkind = s.reqVkind := rfl
@[simp] theorem startOperation_reqVnum (s : State) : (startOperation s).reqVnum = s.reqVnum := rfl
@[simp] theorem startOperation_reqVlen (s : State) : (startOperation s).reqVlen = s.reqVlen := rfl
@[simp] theorem startOperation_written (s : State) : (startOperation s).written = s.written := rfl
@[simp] theorem startOperation_pending (s : State) : (startOperation s).pending = s.pending := rfl
@[simp] theorem startOperation_readout (s : State) : (startOperation s).readout = s.readout := rfl
@[simp] theorem startOperation_mem_key (s : State) : (startOperation s).mem.key = s.mem.key := rfl
@[simp] theorem startOperation_mem_vbuf (s : State) : (startOperation s).mem.vbuf = s.mem.vbuf := rfl
@[simp] theorem startOperation_mem_hdr (s : State) : (startOperation s).mem.hdr = [] := rfl
@[simp] theorem startOperation_mem_data (s : State) : (startOperation s).mem.data = [] := rfl
@[simp] theorem startOperation_rspSpan (s : State) : (startOperation s).rspSpan = none := rfl
@[simp] theorem startOperation_rspDlen (s : State) : (startOperation s).rspDlen = none := rfl
@[simp] theorem startOperation_crcStream (s : State) : (startOperation s).crcStream = [] := rfl
@[simp] theorem startOperation_status (s : State) : (startOperation s).status = statusStarted := rfl
@[simp] theorem startOperation_taken (s : State) : (startOperation s).taken = some (requestOf s) := rfl
@[simp] theorem startOperation_work (s : State) : (startOperation s).work = none := rfl

/-! ### takeError -/

@[simp] theorem takeError_reqNs (e : ValidationError) (s : State) : (takeError e s).reqNs = s.reqNs := rfl
@[simp] theorem takeError_reqType (e : ValidationError) (s : State) : (takeError e s).reqType = s.reqType := rfl
@[simp] theorem takeError_reqKlen (e : ValidationError) (s : State) : (takeError e s).reqKlen = s.reqKlen := rfl
@[simp] theorem takeError_reqVkind (e : ValidationError) (s : State) : (takeError e s).reqVkind = s.reqVkind := rfl
@[simp] theorem takeError_reqVnum (e : ValidationError) (s : State) : (takeError e s).reqVnum = s.reqVnum := rfl
@[simp] theorem takeError_reqVlen (e : ValidationError) (s : State) : (takeError e s).reqVlen = s.reqVlen := rfl
@[simp] theorem takeError_written (e : ValidationError) (s : State) : (takeError e s).written = s.written := rfl
@[simp] theorem takeError_pending (e : ValidationError) (s : State) : (takeError e s).pending = s.pending := rfl
@[simp] theorem takeError_readout (e : ValidationError) (s : State) : (takeError e s).readout = s.readout := rfl
@[simp] theorem takeError_mem_key (e : ValidationError) (s : State) : (takeError e s).mem.key = s.mem.key := rfl
@[simp] theorem takeError_mem_vbuf (e : ValidationError) (s : State) : (takeError e s).mem.vbuf = s.mem.vbuf := rfl
@[simp] theorem takeError_mem_hdr (e : ValidationError) (s : State) : (takeError e s).mem.hdr = [] := rfl
@[simp] theorem takeError_mem_data (e : ValidationError) (s : State) : (takeError e s).mem.data = [] := rfl
@[simp] theorem takeError_rspSpan (e : ValidationError) (s : State) : (takeError e s).rspSpan = none := rfl
@[simp] theorem takeError_rspDlen (e : ValidationError) (s : State) : (takeError e s).rspDlen = none := rfl
@[simp] theorem takeError_crcStream (e : ValidationError) (s : State) : (takeError e s).crcStream = [] := rfl
@[simp] theorem takeError_status (e : ValidationError) (s : State) : (takeError e s).status = statusEnded (errorCode e) := rfl
@[simp] theorem takeError_taken (e : ValidationError) (s : State) : (takeError e s).taken = none := rfl
@[simp] theorem takeError_work (e : ValidationError) (s : State) : (takeError e s).work = none := rfl

/-! ### resetBlock -/

@[simp] theorem resetBlock_reqNs (s : State) : (resetBlock s).reqNs = s.reqNs := rfl
@[simp] theorem resetBlock_reqType (s : State) : (resetBlock s).reqType = s.reqType := rfl
@[simp] theorem resetBlock_reqKlen (s : State) : (resetBlock s).reqKlen = s.reqKlen := rfl
@[simp] theorem resetBlock_reqVkind (s : State) : (resetBlock s).reqVkind = s.reqVkind := rfl
@[simp] theorem resetBlock_reqVnum (s : State) : (resetBlock s).reqVnum = s.reqVnum := rfl
@[simp] theorem resetBlock_reqVlen (s : State) : (resetBlock s).reqVlen = s.reqVlen := rfl
@[simp] theorem resetBlock_written (s : State) : (resetBlock s).written = s.written := rfl
@[simp] theorem resetBlock_pending (s : State) : (resetBlock s).pending = s.pending := rfl
@[simp] theorem resetBlock_readout (s : State) : (resetBlock s).readout = s.readout := rfl
@[simp] theorem resetBlock_mem_key (s : State) : (resetBlock s).mem.key = s.mem.key := rfl
@[simp] theorem resetBlock_mem_vbuf (s : State) : (resetBlock s).mem.vbuf = s.mem.vbuf := rfl
@[simp] theorem resetBlock_mem_hdr (s : State) : (resetBlock s).mem.hdr = [] := rfl
@[simp] theorem resetBlock_mem_data (s : State) : (resetBlock s).mem.data = [] := rfl
@[simp] theorem resetBlock_rspSpan (s : State) : (resetBlock s).rspSpan = none := rfl
@[simp] theorem resetBlock_rspDlen (s : State) : (resetBlock s).rspDlen = none := rfl
@[simp] theorem resetBlock_crcStream (s : State) : (resetBlock s).crcStream = [] := rfl
@[simp] theorem resetBlock_status (s : State) : (resetBlock s).status = statusIdle := rfl
@[simp] theorem resetBlock_taken (s : State) : (resetBlock s).taken = none := rfl
@[simp] theorem resetBlock_work (s : State) : (resetBlock s).work = none := rfl

/-! ### loadWorking -/

@[simp] theorem loadWorking_reqNs (w : Working) (s : State) : (loadWorking w s).reqNs = s.reqNs := rfl
@[simp] theorem loadWorking_reqType (w : Working) (s : State) : (loadWorking w s).reqType = s.reqType := rfl
@[simp] theorem loadWorking_reqKlen (w : Working) (s : State) : (loadWorking w s).reqKlen = s.reqKlen := rfl
@[simp] theorem loadWorking_reqVkind (w : Working) (s : State) : (loadWorking w s).reqVkind = s.reqVkind := rfl
@[simp] theorem loadWorking_reqVnum (w : Working) (s : State) : (loadWorking w s).reqVnum = s.reqVnum := rfl
@[simp] theorem loadWorking_reqVlen (w : Working) (s : State) : (loadWorking w s).reqVlen = s.reqVlen := rfl
@[simp] theorem loadWorking_written (w : Working) (s : State) : (loadWorking w s).written = s.written := rfl
@[simp] theorem loadWorking_pending (w : Working) (s : State) : (loadWorking w s).pending = s.pending := rfl
@[simp] theorem loadWorking_readout (w : Working) (s : State) : (loadWorking w s).readout = s.readout := rfl
@[simp] theorem loadWorking_mem (w : Working) (s : State) : (loadWorking w s).mem = s.mem := rfl
@[simp] theorem loadWorking_rspSpan (w : Working) (s : State) : (loadWorking w s).rspSpan = s.rspSpan := rfl
@[simp] theorem loadWorking_rspDlen (w : Working) (s : State) : (loadWorking w s).rspDlen = s.rspDlen := rfl
@[simp] theorem loadWorking_crcStream (w : Working) (s : State) : (loadWorking w s).crcStream = s.crcStream := rfl
@[simp] theorem loadWorking_status (w : Working) (s : State) : (loadWorking w s).status = s.status := rfl
@[simp] theorem loadWorking_taken (w : Working) (s : State) : (loadWorking w s).taken = s.taken := rfl
@[simp] theorem loadWorking_work (w : Working) (s : State) : (loadWorking w s).work = some w := rfl

/-! ### publish -/

@[simp] theorem publish_reqNs (run : Run) (s : State) : (publish run s).reqNs = s.reqNs := rfl
@[simp] theorem publish_reqType (run : Run) (s : State) : (publish run s).reqType = s.reqType := rfl
@[simp] theorem publish_reqKlen (run : Run) (s : State) : (publish run s).reqKlen = s.reqKlen := rfl
@[simp] theorem publish_reqVkind (run : Run) (s : State) : (publish run s).reqVkind = s.reqVkind := rfl
@[simp] theorem publish_reqVnum (run : Run) (s : State) : (publish run s).reqVnum = s.reqVnum := rfl
@[simp] theorem publish_reqVlen (run : Run) (s : State) : (publish run s).reqVlen = s.reqVlen := rfl
@[simp] theorem publish_written (run : Run) (s : State) : (publish run s).written = s.written := rfl
@[simp] theorem publish_pending (run : Run) (s : State) : (publish run s).pending = s.pending := rfl
@[simp] theorem publish_readout (run : Run) (s : State) : (publish run s).readout = s.readout := rfl
@[simp] theorem publish_mem_key (run : Run) (s : State) : (publish run s).mem.key = s.mem.key := rfl
@[simp] theorem publish_mem_vbuf (run : Run) (s : State) : (publish run s).mem.vbuf = s.mem.vbuf := rfl
@[simp] theorem publish_mem_hdr (run : Run) (s : State) : (publish run s).mem.hdr = bytesAt 0 run.hdr := rfl
@[simp] theorem publish_mem_data (run : Run) (s : State) : (publish run s).mem.data = bytesAt 0 run.data := rfl
@[simp] theorem publish_rspSpan (run : Run) (s : State) : (publish run s).rspSpan = s.work.map Working.span := rfl
@[simp] theorem publish_rspDlen (run : Run) (s : State) : (publish run s).rspDlen = s.work.map Working.dlen := rfl
@[simp] theorem publish_crcStream (run : Run) (s : State) : (publish run s).crcStream = run.crcCalls := rfl
@[simp] theorem publish_status (run : Run) (s : State) : (publish run s).status = statusEnded 0#3 := rfl
@[simp] theorem publish_taken (run : Run) (s : State) : (publish run s).taken = none := rfl
@[simp] theorem publish_work (run : Run) (s : State) : (publish run s).work = none := rfl

/-! ### hostSees -/

@[simp] theorem hostSees_reqNs (v : HostValue) (s : State) : (hostSees v s).reqNs = s.reqNs := rfl
@[simp] theorem hostSees_reqType (v : HostValue) (s : State) : (hostSees v s).reqType = s.reqType := rfl
@[simp] theorem hostSees_reqKlen (v : HostValue) (s : State) : (hostSees v s).reqKlen = s.reqKlen := rfl
@[simp] theorem hostSees_reqVkind (v : HostValue) (s : State) : (hostSees v s).reqVkind = s.reqVkind := rfl
@[simp] theorem hostSees_reqVnum (v : HostValue) (s : State) : (hostSees v s).reqVnum = s.reqVnum := rfl
@[simp] theorem hostSees_reqVlen (v : HostValue) (s : State) : (hostSees v s).reqVlen = s.reqVlen := rfl
@[simp] theorem hostSees_written (v : HostValue) (s : State) : (hostSees v s).written = s.written := rfl
@[simp] theorem hostSees_pending (v : HostValue) (s : State) : (hostSees v s).pending = s.pending := rfl
@[simp] theorem hostSees_mem (v : HostValue) (s : State) : (hostSees v s).mem = s.mem := rfl
@[simp] theorem hostSees_rspSpan (v : HostValue) (s : State) : (hostSees v s).rspSpan = s.rspSpan := rfl
@[simp] theorem hostSees_rspDlen (v : HostValue) (s : State) : (hostSees v s).rspDlen = s.rspDlen := rfl
@[simp] theorem hostSees_crcStream (v : HostValue) (s : State) : (hostSees v s).crcStream = s.crcStream := rfl
@[simp] theorem hostSees_status (v : HostValue) (s : State) : (hostSees v s).status = s.status := rfl
@[simp] theorem hostSees_taken (v : HostValue) (s : State) : (hostSees v s).taken = s.taken := rfl
@[simp] theorem hostSees_work (v : HostValue) (s : State) : (hostSees v s).work = s.work := rfl
@[simp] theorem hostSees_readout (v : HostValue) (s : State) : (hostSees v s).readout = some v := rfl

/-! ### What a port shows -/

@[simp] theorem portValue_written {w : Nat} (held unwritten : BitVec w) : portValue true held unwritten = held := rfl
@[simp] theorem portValue_unwritten {w : Nat} (held unwritten : BitVec w) : portValue false held unwritten = unwritten := rfl
theorem portNs_of_written {s : State} (h : s.written.ns = true) : portNs s = s.reqNs := by simp [portNs, h]
theorem portType_of_written {s : State} (h : s.written.type = true) : portType s = s.reqType := by simp [portType, h]
theorem portKlen_of_written {s : State} (h : s.written.klen = true) : portKlen s = s.reqKlen := by simp [portKlen, h]
theorem portVkind_of_written {s : State} (h : s.written.vkind = true) : portVkind s = s.reqVkind := by simp [portVkind, h]
theorem portVnum_of_written {s : State} (h : s.written.vnum = true) : portVnum s = s.reqVnum := by simp [portVnum, h]
theorem portVlen_of_written {s : State} (h : s.written.vlen = true) : portVlen s = s.reqVlen := by simp [portVlen, h]

/-! ### The Request of a state -/

@[simp] theorem requestOf_hostSees (v : HostValue) (s : State) : requestOf (hostSees v s) = requestOf s := rfl
@[simp] theorem requestOf_startOperation (s : State) : requestOf (startOperation s) = requestOf s := rfl
@[simp] theorem requestOf_takeError (e : ValidationError) (s : State) : requestOf (takeError e s) = requestOf s := rfl
@[simp] theorem requestOf_resetBlock (s : State) : requestOf (resetBlock s) = requestOf s := rfl
@[simp] theorem requestOf_publish (run : Run) (s : State) : requestOf (publish run s) = requestOf s := rfl
@[simp] theorem requestOf_loadWorking (w : Working) (s : State) : requestOf (loadWorking w s) = requestOf s := rfl

end Sys2Proof.Machine
end

