-- ==== Sys2Proof/Laws/Operations.lean ====
section
/-!
SUPPORT. One lemma per shared operation that says once everything it can do; the proofs cite these instead of unfolding.
-/

namespace Sys2Proof.Machine

/-! ### The status register -/

@[simp] theorem statusEnded_zero : statusEnded 0#3 = 0x02#8 := rfl
@[simp] theorem statusEnded_keyTooLong : statusEnded (errorCode .keyTooLong) = 0x06#8 := rfl
@[simp] theorem statusEnded_typeMismatch : statusEnded (errorCode .typeMismatch) = 0x0A#8 := rfl
@[simp] theorem statusEnded_valueTooLarge : statusEnded (errorCode .valueTooLarge) = 0x0E#8 := rfl
@[simp] theorem statusEnded_unsupportedType : statusEnded (errorCode .unsupportedType) = 0x12#8 := rfl
@[simp] theorem phaseOf_idle : phaseOf statusIdle = .idle := rfl
@[simp] theorem phaseOf_started : phaseOf statusStarted = .busy := rfl
@[simp] theorem phaseOf_succeeded : phaseOf 0x02#8 = .done := rfl
@[simp] theorem statusSucceeded_idle : statusSucceeded statusIdle = false := rfl
@[simp] theorem statusSucceeded_started : statusSucceeded statusStarted = false := rfl
@[simp] theorem statusSucceeded_succeeded : statusSucceeded 0x02#8 = true := rfl
@[simp] theorem statusLegal_idle : statusLegal statusIdle = true := rfl
@[simp] theorem statusLegal_started : statusLegal statusStarted = true := rfl
@[simp] theorem statusLegal_succeeded : statusLegal 0x02#8 = true := rfl

/-- The fields of STATUS at the end of an operation (10_state.md R33, R37). -/
@[simp] theorem statusErr_ended (err : BitVec 3) : statusErr (statusEnded err) = err := by
  revert err
  decide

@[simp] theorem statusBusy_ended (err : BitVec 3) : statusBusy (statusEnded err) = false := by
  revert err
  decide

@[simp] theorem statusDone_ended (err : BitVec 3) : statusDone (statusEnded err) = true := by
  revert err
  decide

@[simp] theorem statusReserved_ended (err : BitVec 3) : statusReserved (statusEnded err) = 0#3 := by
  revert err
  decide

@[simp] theorem phaseOf_error (e : ValidationError) : phaseOf (statusEnded (errorCode e)) = .done := by
  cases e <;> rfl

@[simp] theorem statusSucceeded_error (e : ValidationError) : statusSucceeded (statusEnded (errorCode e)) = false := by
  cases e <;> rfl

@[simp] theorem statusLegal_error (e : ValidationError) : statusLegal (statusEnded (errorCode e)) = true := by
  cases e <;> rfl

/-- BUSY excludes a response (10_state.md R34). -/
theorem not_succeeded_of_busy {st : BitVec 8} (h : phaseOf st = .busy) : statusSucceeded st = false := by
  unfold phaseOf at h
  cases hb : statusBusy st with
  | true => simp [statusSucceeded, hb]
  | false =>
    simp only [hb, Bool.false_eq_true, if_false] at h
    split at h <;> cases h

/-! ### Validation -/

/-- Every way the checks of a supported type can answer (60_exceptions.md R221 to R223, R226). -/
theorem validateFor_cases (i : Instr) (r : Request) :
    (15 < r.klen.toNat ∧ validateFor i r = some .keyTooLong) ∨
    (r.klen.toNat ≤ 15 ∧ i.width.isSome = true ∧ r.vkind = 1#1 ∧ validateFor i r = some .typeMismatch) ∨
    (r.klen.toNat ≤ 15 ∧ i.width.isSome = true ∧ r.vkind = 0#1 ∧ validateFor i r = none) ∨
    (r.klen.toNat ≤ 15 ∧ i.width = none ∧ r.vkind = 0#1 ∧ validateFor i r = some .typeMismatch) ∨
    (r.klen.toNat ≤ 15 ∧ i.width = none ∧ r.vkind = 1#1 ∧ 3999 < r.vlen.toNat ∧
      validateFor i r = some .valueTooLarge) ∨
    (r.klen.toNat ≤ 15 ∧ i.width = none ∧ r.vkind = 1#1 ∧ r.vlen.toNat ≤ 3999 ∧ validateFor i r = none) := by
  have hk : r.vkind = 0#1 ∨ r.vkind = 1#1 := by
    generalize r.vkind = k
    revert k
    decide
  by_cases h : 15 < r.klen.toNat
  · simp [h, validateFor, checkKey]
  · have hk15 : r.klen.toNat ≤ 15 := by omega
    cases hw : i.width with
    | some w => rcases hk with hk | hk <;> simp [h, hk15, hk, hw, validateFor, checkKey, checkValue]
    | none =>
      by_cases hv : r.vlen.toNat ≤ 3999
      · have : ¬ 3999 < r.vlen.toNat := by omega
        rcases hk with hk | hk <;> simp [h, hk15, hk, hw, hv, this, validateFor, checkKey, checkValue] <;> omega
      · have : 3999 < r.vlen.toNat := by omega
        rcases hk with hk | hk <;> simp [h, hk15, hk, hw, hv, this, validateFor, checkKey, checkValue] <;> omega

/-- No check of a supported type answers `UnsupportedType` (42_numeric_encoder.md R150, 43_string_chunker.md R160). -/
theorem validateFor_ne_unsupported (i : Instr) (r : Request) : validateFor i r ≠ some .unsupportedType := by
  rcases validateFor_cases i r with h | h | h | h | h | h <;> simp [h]

/-- An accepted Request has a key of at most 15 bytes. -/
theorem klen_le_of_valid {i : Instr} {r : Request} (h : validateFor i r = none) : r.klen.toNat ≤ 15 := by
  rcases validateFor_cases i r with h' | h' | h' | h' | h' | h' <;> simp_all

/-! ### The operation -/

/-- The header an operation assembles, written out (30_encoding.md R88, 46_crc_scope.md R213). -/
theorem assemble_hdr (c : Config) (r : Request) (kf : List Byte) (v : SerializedValue) :
    (assemble c r kf v).hdr = headerBlock c.crc32 r.ns r.type (BitVec.ofNat 8 v.span) kf v.df := by
  simp only [assemble]
  rw [crcScope_packHeader _ _ _ _ _ (length_rep _ _), storeHeaderCrc_packHeader _ _ _ _ _ _ (length_rep _ _)]
  simp [packHeader, headerBlock]

@[simp] theorem assemble_data (c : Config) (r : Request) (kf : List Byte) (v : SerializedValue) :
    (assemble c r kf v).data = v.data := rfl

@[simp] theorem assemble_span (c : Config) (r : Request) (kf : List Byte) (v : SerializedValue) :
    (assemble c r kf v).work.span = BitVec.ofNat 8 v.span := rfl

@[simp] theorem assemble_dlen (c : Config) (r : Request) (kf : List Byte) (v : SerializedValue) :
    (assemble c r kf v).work.dlen = BitVec.ofNat 16 (dataLength v.span) := rfl

/-- The scope an operation hands to the checksum function (46_crc_scope.md R210, R212). -/
theorem assemble_scope (c : Config) (r : Request) (kf : List Byte) (v : SerializedValue) :
    (assemble c r kf v).work.scope = [r.ns, r.type, BitVec.ofNat 8 v.span, 0xFF#8] ++ kf ++ v.df := by
  simp only [assemble]
  rw [crcScope_packHeader _ _ _ _ _ (length_rep _ _)]

theorem assemble_crcCalls (c : Config) (r : Request) (kf : List Byte) (v : SerializedValue) :
    (assemble c r kf v).crcCalls = v.payload.toList ++ [(assemble c r kf v).work.scope] := rfl

/-- The operation runs exactly when the bytes it reads hold a value, and what it then computes. -/
theorem operate_cases (c : Config) (i : Instr) (r : Request) :
    (operandsHeld i r = false ∧ operate c i r = none) ∨
    (operandsHeld i r = true ∧ ∃ key v, keyBytes r = some key ∧ serializeValue c i r = some v ∧
      operate c i r = some (assemble c r (keyField key) v)) := by
  cases hk : keyBytes r with
  | none => simp [operandsHeld, operate, hk]
  | some key =>
    cases hw : i.width with
    | some w => simp [operandsHeld, operate, hk, hw, serializeValue]
    | none =>
      cases ht : textBytes r with
      | none => simp [operandsHeld, operate, hk, hw, serializeValue, ht]
      | some text => simp [operandsHeld, operate, hk, hw, serializeValue, ht]

/-- The value serializer's two paths (40_operation.md R112). -/
theorem serializeValue_cases {c : Config} {i : Instr} {r : Request} {v : SerializedValue}
    (h : serializeValue c i r = some v) :
    (∃ w, i.width = some w ∧ v = serializeNumeric w (numericOperand r)) ∨
    (i.width = none ∧ ∃ text, textBytes r = some text ∧ v = serializeString c.crc32 text) := by
  unfold serializeValue at h
  split at h
  · rename_i w hw
    simp only [Option.some.injEq] at h
    exact .inl ⟨w, hw, h.symm⟩
  · rename_i hw
    simp only [Option.map_eq_some_iff] at h
    obtain ⟨text, ht, rfl⟩ := h
    exact .inr ⟨hw, text, ht, rfl⟩

/-- The bytes of an operand have the length its port gives. -/
theorem length_keyBytes {r : Request} {key : List Byte} (h : keyBytes r = some key) : key.length = r.klen.toNat :=
  (readBytes_eq_some h).1

theorem length_textBytes {r : Request} {text : List Byte} (h : textBytes r = some text) : text.length = r.vlen.toNat :=
  (readBytes_eq_some h).1

/-! ### COMPLETE -/

/-- Every way COMPLETE can answer (40_operation.md R117). -/
theorem completeAs_cases (c : Config) (i : Instr) (s : State) :
    (c.blockSize ≠ 32 ∧ completeAs c i s = .refused .unsupportedBlockSize) ∨
    (c.blockSize = 32 ∧ s.taken = none ∧ completeAs c i s = .fault .noOperationInProgress) ∨
    (c.blockSize = 32 ∧ ∃ r, s.taken = some r ∧
      ((∃ e, validateFor i r = some e ∧ completeAs c i s = .next (takeError e s)) ∨
       (validateFor i r = none ∧ operate c i r = none ∧ completeAs c i s = .fault .requestByteHoldsNoValue) ∨
       (validateFor i r = none ∧ ∃ run, operate c i r = some run ∧
          completeAs c i s = .next (publish run (loadWorking run.work s))))) := by
  by_cases hb : c.blockSize = 32
  · cases ht : s.taken with
    | none => simp [completeAs, hb, ht]
    | some r =>
      cases hv : validateFor i r with
      | some e => simp [completeAs, hb, ht, hv]
      | none =>
        cases ho : operate c i r with
        | none => simp [completeAs, hb, ht, hv, ho]
        | some run => simp [completeAs, hb, ht, hv, ho]
  · simp [completeAs, hb]

/-- Every operation's meaning is COMPLETE for its type on the hardware's parameters. -/
theorem exec_eq_completeAs (i : Instr) (s : State) : exec i s = completeAs Config.hardware i s := by
  cases i <;> rfl

/-- The state after an entry, written out: what `publish` leaves (R117). -/
theorem publish_loadWorking (run : Run) (s : State) (h : run.work.dlen = BitVec.ofNat 16 run.data.length) :
    publish run (loadWorking run.work s) = afterEntry s run.hdr run.data run.work.span run.crcCalls := by
  simp [publish, loadWorking, afterEntry, h]

/-- The state after an error, written out (60_exceptions.md R230). -/
theorem takeError_eq_afterError (e : ValidationError) (s : State) :
    takeError e s = afterError s (statusEnded (errorCode e)) := rfl

/-! ### Turns -/

/-- COMPLETE in BUSY, for a Request whose type is supported or not (30_encoding.md R85, R87). -/
theorem runOperationAt_cases (c : Config) (run : Instr → State → Host.Outcome State Fault Refusal) {s : State} {r : Request}
    (h : s.taken = some r) :
    (∃ i, selectType c.tagCode r.type = some i ∧ runOperationAt c run s = run i s) ∨
    (selectType c.tagCode r.type = none ∧ runOperationAt c run s = .next (takeError (validateUnsupported r) s)) := by
  cases hs : selectType c.tagCode r.type with
  | some i => simp [runOperationAt, h, decodeWith, hs]
  | none => simp [runOperationAt, h, decodeWith, hs, completeUnsupported]

theorem runOperation_cases {s : State} {r : Request} (h : s.taken = some r) :
    (∃ i, selectType defaultTagCode r.type = some i ∧ runOperation s = exec i s) ∨
    (selectType defaultTagCode r.type = none ∧ runOperation s = .next (takeError (validateUnsupported r) s)) :=
  runOperationAt_cases Config.hardware exec h

/-- START outside BUSY has its effect whatever the ports and buffers hold (40_operation.md R116). -/
theorem hostMove_start_not_busy {s : State} (h : phaseOf s.status ≠ .busy) :
    hostMove .start s = .next (startOperation s) := by
  cases hp : phaseOf s.status <;> simp_all [hostMove]

/-- The block's turn by phase (40_operation.md R110). -/
theorem blockTurnAt_busy {c : Config} {run : Instr → State → Host.Outcome State Fault Refusal} {s : State}
    (h : phaseOf s.status = .busy) : blockTurnAt c run s = runOperationAt c run s := by
  simp [blockTurnAt, h]

theorem blockTurnAt_not_busy {c : Config} {run : Instr → State → Host.Outcome State Fault Refusal} {s : State}
    (h : phaseOf s.status ≠ .busy) : blockTurnAt c run s = .next s := by
  cases hp : phaseOf s.status <;> simp_all [blockTurnAt]

/-- The host's write: a fault while BUSY, else the written state (20_memory.md R62). -/
theorem hostWrite_cases (s w : State) :
    (phaseOf s.status = .busy ∧ hostWrite s w = .fault .hostWriteWhileBusy) ∨
    (phaseOf s.status ≠ .busy ∧ hostWrite s w = .next w) := by
  unfold hostWrite
  cases h : phaseOf s.status <;> simp

/-- A host read of a byte: three outcomes, and a next state differs in `readout` only (20_memory.md R57). -/
theorem hostReadByte_cases (m : Buffer) (size a : Nat) (noValue : Fault) (s : State) :
    (size ≤ a ∧ hostReadByte m size a noValue s = .fault .noSuchOffset) ∨
    (a < size ∧ readByte m a = none ∧ hostReadByte m size a noValue s = .fault noValue) ∨
    (a < size ∧ ∃ v, readByte m a = some v ∧ hostReadByte m size a noValue s = .next (hostSees (.byte v) s)) := by
  unfold hostReadByte
  by_cases ha : a < size
  · cases hr : readByte m a <;> simp [ha]
  · simp [ha]
    omega

/-- What a host write of a register port leaves: the state but for the six ports and the record of what was written. -/
def samePortsAside (s t : State) : Prop :=
  t.mem = s.mem ∧ t.rspSpan = s.rspSpan ∧ t.rspDlen = s.rspDlen ∧ t.crcStream = s.crcStream ∧ t.status = s.status ∧
    t.taken = s.taken ∧ t.work = s.work ∧ t.pending = s.pending ∧ t.readout = s.readout

/-- Every way a host move can reach a next state (40_operation.md R118): a write of a port, of KEY or of VBUF outside
BUSY; a read, which changes `readout` alone; START, with or without effect; RESET. -/
theorem hostMove_cases {m : HostMove} {s t : State} (h : hostMove m s = .next t) :
    (phaseOf s.status ≠ .busy ∧ samePortsAside s t) ∨
    (phaseOf s.status ≠ .busy ∧ ∃ a v, m = .writeKey a v ∧ a < 16 ∧
      t = { s with mem := { s.mem with key := writeByte s.mem.key a v } }) ∨
    (phaseOf s.status ≠ .busy ∧ ∃ a v, m = .writeVbuf a v ∧ a < 3999 ∧
      t = { s with mem := { s.mem with vbuf := writeByte s.mem.vbuf a v } }) ∨
    (∃ v, t = hostSees v s) ∨
    (m = .start ∧ phaseOf s.status = .busy ∧ t = s) ∨
    (m = .start ∧ phaseOf s.status ≠ .busy ∧ t = startOperation s) ∨
    (m = .reset ∧ t = resetBlock s) := by
  have write : ∀ w : State, hostWrite s w = .next t → phaseOf s.status ≠ .busy ∧ t = w := by
    intro w hh
    rcases hostWrite_cases s w with ⟨_, h'⟩ | ⟨hp, h'⟩ <;> rw [h'] at hh <;> cases hh
    exact ⟨hp, rfl⟩
  have read : ∀ (b : Buffer) (size a : Nat) (f : Fault), hostReadByte b size a f s = .next t → ∃ v, t = hostSees v s := by
    intro b size a f hh
    rcases hostReadByte_cases b size a f s with ⟨_, h'⟩ | ⟨_, _, h'⟩ | ⟨_, v, _, h'⟩ <;> rw [h'] at hh <;> cases hh
    exact ⟨_, rfl⟩
  cases m with
  | writeNs v | writeType v | writeKlen v | writeVkind v | writeVnum v | writeVlen v =>
    obtain ⟨hp, rfl⟩ := write _ h
    exact .inl ⟨hp, rfl, rfl, rfl, rfl, rfl, rfl, rfl, rfl, rfl⟩
  | writeKey a v =>
    simp only [hostMove] at h
    split at h
    · rename_i ha
      obtain ⟨hp, rfl⟩ := write _ h
      exact .inr (.inl ⟨hp, a, v, rfl, ha, rfl⟩)
    · cases h
  | writeVbuf a v =>
    simp only [hostMove] at h
    split at h
    · rename_i ha
      obtain ⟨hp, rfl⟩ := write _ h
      exact .inr (.inr (.inl ⟨hp, a, v, rfl, ha, rfl⟩))
    · cases h
  | readKey a | readVbuf a | readHdr a | readData a => exact .inr (.inr (.inr (.inl (read _ _ _ _ h))))
  | readNs | readType | readKlen | readVkind | readVnum | readVlen | readStatus =>
    cases h
    exact .inr (.inr (.inr (.inl ⟨_, rfl⟩)))
  | readSpan | readDlen =>
    simp only [hostMove] at h
    split at h <;> cases h
    exact .inr (.inr (.inr (.inl ⟨_, rfl⟩)))
  | start =>
    simp only [hostMove] at h
    split at h
    · rename_i hp
      cases h
      exact .inr (.inr (.inr (.inr (.inl ⟨rfl, hp, rfl⟩))))
    · rename_i hp
      cases h
      exact .inr (.inr (.inr (.inr (.inr (.inl ⟨rfl, hp, rfl⟩)))))
  | reset =>
    cases h
    exact .inr (.inr (.inr (.inr (.inr (.inr ⟨rfl, rfl⟩)))))

/-- One turn is the oldest pending one, or the block's when none is pending. -/
theorem takeTurnAt_cases (c : Config) (run : Instr → State → Host.Outcome State Fault Refusal) (s : State) :
    (s.pending = [] ∧ takeTurnAt c run s = blockTurnAt c run s) ∨
    (∃ rest, s.pending = .block :: rest ∧ takeTurnAt c run s = blockTurnAt c run { s with pending := rest }) ∨
    (∃ m rest, s.pending = .host m :: rest ∧ takeTurnAt c run s = hostMove m { s with pending := rest }) := by
  unfold takeTurnAt
  cases hp : s.pending with
  | nil => simp
  | cons t rest =>
    cases t with
    | block => exact .inr (.inl ⟨rest, rfl, rfl⟩)
    | host m => exact .inr (.inr ⟨m, rest, rfl, rfl⟩)

/-- One step of the machine is one turn at its parameters. -/
theorem step_cases (s : State) :
    (s.pending = [] ∧ step s = blockTurn s) ∨
    (∃ rest, s.pending = .block :: rest ∧ step s = blockTurn { s with pending := rest }) ∨
    (∃ m rest, s.pending = .host m :: rest ∧ step s = hostMove m { s with pending := rest }) :=
  takeTurnAt_cases Config.hardware exec s

/-- One step of an instance of block size 32 is one turn at its parameters (10_state.md R39). -/
theorem stepAt_eq_takeTurnAt {c : Config} (h : c.blockSize = 32) (s : State) :
    stepAt c s = takeTurnAt c (completeAs c) s :=
  if_pos h

end Sys2Proof.Machine
end

