-- ==== Sys2Proof/Laws/Canonical.lean ====
section
/-!
SUPPORT. Every operation keeps the buffers in their canonical form (20_memory.md R50), with the lengths this rests on.
-/

namespace Sys2Proof.Machine

theorem memory_wf_iff (m : Memory) : m.wf = true ↔
    risingFrom 0 16 m.key = true ∧ risingFrom 0 3999 m.vbuf = true ∧ risingFrom 0 32 m.hdr = true ∧
      risingFrom 0 4000 m.data = true := by
  simp [Memory.wf, and_assoc]

theorem memory_wf_reset : State.reset.mem.wf = true := rfl

theorem memory_wf_discardResponse {s : State} (h : s.mem.wf = true) : (discardResponse s).mem.wf = true := by
  rw [memory_wf_iff] at h ⊢
  exact ⟨h.1, h.2.1, rfl, rfl⟩

theorem memory_wf_startOperation {s : State} (h : s.mem.wf = true) : (startOperation s).mem.wf = true :=
  memory_wf_discardResponse h

theorem memory_wf_takeError {s : State} (e : ValidationError) (h : s.mem.wf = true) : (takeError e s).mem.wf = true :=
  memory_wf_discardResponse h

theorem memory_wf_resetBlock {s : State} (h : s.mem.wf = true) : (resetBlock s).mem.wf = true :=
  memory_wf_discardResponse h

theorem memory_wf_writeKey {s : State} {a : Nat} (v : Byte) (h : s.mem.wf = true) (ha : a < 16) :
    ({ s.mem with key := writeByte s.mem.key a v } : Memory).wf = true := by
  rw [memory_wf_iff] at h ⊢
  exact ⟨risingFrom_writeByte v h.1 (Nat.zero_le a) ha, h.2⟩

theorem memory_wf_writeVbuf {s : State} {a : Nat} (v : Byte) (h : s.mem.wf = true) (ha : a < 3999) :
    ({ s.mem with vbuf := writeByte s.mem.vbuf a v } : Memory).wf = true := by
  rw [memory_wf_iff] at h ⊢
  exact ⟨h.1, risingFrom_writeByte v h.2.1 (Nat.zero_le a) ha, h.2.2⟩

theorem memory_wf_publish {s : State} {run : Run} (h : s.mem.wf = true) (hh : run.hdr.length ≤ 32)
    (hd : run.data.length ≤ 4000) : (publish run s).mem.wf = true := by
  rw [memory_wf_iff] at h ⊢
  exact ⟨h.1, h.2.1, risingFrom_bytesAt 32 _ _ _ (Nat.zero_le 0) (by simpa using hh),
    risingFrom_bytesAt 4000 _ _ _ (Nat.zero_le 0) (by simpa using hd)⟩

theorem length_headerBlock (crc32 : List Byte → Vector Byte 4) (ns type span : Byte) (kf df : List Byte) :
    (headerBlock crc32 ns type span kf df).length = 8 + kf.length + df.length := by
  simp [headerBlock]
  omega

theorem width_le (i : Instr) {w : Nat} (h : i.width = some w) : w ≤ 8 := by
  cases i <;> simp [Instr.width] at h <;> omega

/-- The data field of every accepted operation is 8 bytes (00_scope.md R8). -/
theorem length_df_of_serializeValue {c : Config} {i : Instr} {r : Request} {v : SerializedValue}
    (h : serializeValue c i r = some v) : v.df.length = 8 := by
  rcases serializeValue_cases h with ⟨w, hw, rfl⟩ | ⟨_, text, _, rfl⟩
  · exact length_numField _ (width_le i hw)
  · simp [serializeString]

/-- The header block of every accepted operation is exactly one block (10_state.md R30). -/
theorem length_hdr_of_operate {c : Config} {i : Instr} {r : Request} {run : Run} (hv : validateFor i r = none)
    (h : operate c i r = some run) : run.hdr.length = 32 := by
  rcases operate_cases c i r with ⟨_, h'⟩ | ⟨_, key, v, hk, hs, h'⟩
  · simp [h'] at h
  · rw [h', Option.some.injEq] at h
    subst h
    have hl : key.length ≤ 15 := by rw [length_keyBytes hk]; exact klen_le_of_valid hv
    rw [assemble_hdr, length_headerBlock, length_keyField hl, length_df_of_serializeValue hs]

/-- The data buffer of every accepted operation has the length the span gives, at most 4000 bytes (44_block_counter.md R182, R183). -/
theorem length_data_of_operate {c : Config} {i : Instr} {r : Request} {run : Run} (hv : validateFor i r = none)
    (h : operate c i r = some run) :
    run.data.length ≤ 4000 ∧ run.work.dlen = BitVec.ofNat 16 run.data.length ∧
      run.data.length = (run.work.span.toNat - 1) * 32 := by
  rcases operate_cases c i r with ⟨_, h'⟩ | ⟨_, key, v, hk, hs, h'⟩
  · simp [h'] at h
  · rw [h', Option.some.injEq] at h
    subst h
    rcases serializeValue_cases hs with ⟨w, hw, rfl⟩ | ⟨hw, text, ht, rfl⟩
    · refine ⟨by simp [serializeNumeric], by simp [serializeNumeric, numericSpan, dataLength],
        by simp [serializeNumeric, numericSpan]⟩
    · have hl : text.length ≤ 3999 := by
        rw [length_textBytes ht]
        rcases validateFor_cases i r with h' | h' | h' | h' | h' | h' <;> simp_all
      have e : (text.length + 1 + 31) / 32 ≤ 125 := by omega
      refine ⟨?_, ?_, ?_⟩
      · simp only [assemble_data, serializeString, length_dataBuffer, dataLength_stringSpan, length_payloadOf]
        omega
      · simp [serializeString, length_dataBuffer]
      · have hs : stringSpan (text.length + 1) < 2 ^ 8 := by rw [stringSpan_eq]; omega
        simp only [assemble_data, assemble_span, serializeString, length_dataBuffer, length_payloadOf,
          BitVec.toNat_ofNat, Nat.mod_eq_of_lt hs, dataLength]

/-- COMPLETE keeps the canonical form, whatever it answers (40_operation.md R117). -/
theorem memory_wf_completeAs {c : Config} {i : Instr} {s t : State} (h : s.mem.wf = true)
    (hc : completeAs c i s = .next t) : t.mem.wf = true := by
  rcases completeAs_cases c i s with ⟨_, h'⟩ | ⟨_, _, h'⟩ | ⟨_, r, _, ⟨e, _, h'⟩ | ⟨_, _, h'⟩ | ⟨hv, run, ho, h'⟩⟩
  all_goals rw [h'] at hc
  · cases hc
  · cases hc
  · cases hc
    exact memory_wf_takeError e h
  · cases hc
  · cases hc
    exact memory_wf_publish (s := loadWorking run.work s) h (Nat.le_of_eq (length_hdr_of_operate hv ho))
      (length_data_of_operate hv ho).1

/-- A host move keeps the canonical form, whatever it answers (40_operation.md R118). -/
theorem memory_wf_hostMove {m : HostMove} {s t : State} (h : s.mem.wf = true)
    (hc : hostMove m s = .next t) : t.mem.wf = true := by
  rcases hostMove_cases hc with ⟨_, h', _⟩ | ⟨_, a, v, _, ha, rfl⟩ | ⟨_, a, v, _, ha, rfl⟩ | ⟨v, rfl⟩ | ⟨_, _, rfl⟩ |
    ⟨_, _, rfl⟩ | ⟨_, rfl⟩
  · rw [h']
    exact h
  · exact memory_wf_writeKey v h ha
  · exact memory_wf_writeVbuf v h ha
  · exact h
  · exact h
  · exact memory_wf_startOperation h
  · exact memory_wf_resetBlock h

end Sys2Proof.Machine
end

