-- ==== Sys2Proof/Laws/PerInstr.lean ====
section
/-!
SUPPORT. Statements made per instruction: the tag byte of each operation is decoded to it, whatever follows (R85).
-/

namespace Sys2Proof.Laws.RoundTrip

/-- The bytes of `i` decode to `i`, and what follows them is left over. -/
def Statement (i : Instr) : Prop :=
  ∀ rest : List Byte, decode (encode i ++ rest) = .ok i rest

theorem encU8 : Statement .encU8 := fun _ => rfl
theorem encI8 : Statement .encI8 := fun _ => rfl
theorem encU16 : Statement .encU16 := fun _ => rfl
theorem encI16 : Statement .encI16 := fun _ => rfl
theorem encU32 : Statement .encU32 := fun _ => rfl
theorem encI32 : Statement .encI32 := fun _ => rfl
theorem encU64 : Statement .encU64 := fun _ => rfl
theorem encI64 : Statement .encI64 := fun _ => rfl
theorem encStr : Statement .encStr := fun _ => rfl

end Sys2Proof.Laws.RoundTrip
end

