-- ==== Sys2Proof/Tests/Slice0.lean ====
section
/-!
SUPPORT. Tests of the model against the spec's vectors (95_test_vectors.md; each test names its vector, whose bytes are
the spec's), the ill-formed terms that the well-formedness checks refuse, and for every statement with hypotheses a
concrete state and operands that meet them.
-/

namespace Sys2Proof.Tests

open Sys2Proof Sys2Proof.Machine

/-! ### Helpers -/

/-- The next state of an outcome, if it is one. -/
def nextOf : Host.Outcome State Fault Refusal → Option State
  | .next t => some t
  | _ => none

/-- The fault of an outcome, if it is one. -/
def faultOf : Host.Outcome State Fault Refusal → Option Fault
  | .fault f => some f
  | _ => none

/-- A numeric Request with its key's bytes in KEY and nothing in VBUF. -/
def numRequest (type ns : Byte) (key : List Byte) (v : BitVec 64) : Request :=
  ⟨ns, type, BitVec.ofNat 8 key.length, bytesAt 0 key, 0#1, v, 0#16, []⟩

/-- A text Request with its key's bytes in KEY and its text's bytes in VBUF. -/
def textRequest (type ns : Byte) (key text : List Byte) : Request :=
  ⟨ns, type, BitVec.ofNat 8 key.length, bytesAt 0 key, 1#1, 0#64, BitVec.ofNat 16 text.length, bytesAt 0 text⟩

/-- The block idle with the Request in its ports, every port written. -/
def idle (r : Request) : State :=
  { State.reset with
    reqNs := r.ns, reqType := r.type, reqKlen := r.klen, reqVkind := r.vkind, reqVnum := r.vnum, reqVlen := r.vlen
    written := ⟨true, true, true, true, true, true⟩
    mem := ⟨r.key, r.vbuf, [], []⟩ }

/-- The block after START of the Request. -/
def busy (r : Request) : State := startOperation (idle r)

/-- STATUS and the header after one step of an operation. -/
def headerAfter (r : Request) : Option (BitVec 8 × Option (List Byte)) :=
  (nextOf (step (busy r))).map fun t => (t.status, readBytes t.mem.hdr 32 0)

/-- STATUS after one step of an operation, with whether HDR and DATA hold nothing. -/
def errorAfter (r : Request) : Option (BitVec 8 × Bool) :=
  (nextOf (step (busy r))).map fun t => (t.status, t.mem.hdr == [] && t.mem.data == [] && t.rspSpan == none)

/-- `"count"`, `"name"`, `"port"`, `"abcdefghijklmno"`, `"abcdefghijklmnop"`. -/
def keyCount : List Byte := [0x63#8, 0x6F#8, 0x75#8, 0x6E#8, 0x74#8]
def keyName : List Byte := [0x6E#8, 0x61#8, 0x6D#8, 0x65#8]
def keyPort : List Byte := [0x70#8, 0x6F#8, 0x72#8, 0x74#8]
def key15 : List Byte :=
  [0x61#8, 0x62#8, 0x63#8, 0x64#8, 0x65#8, 0x66#8, 0x67#8, 0x68#8, 0x69#8, 0x6A#8, 0x6B#8, 0x6C#8, 0x6D#8, 0x6E#8, 0x6F#8]
def key16 : List Byte := key15 ++ [0x70#8]

/-! ### Decoding: the words of opcode_table.json (30_encoding.md R85, R87) -/

theorem test_decode_numeric_operations :
    [0x01, 0x11, 0x02, 0x12, 0x04, 0x14, 0x08, 0x18].map (decodeTableWord 8) =
      [some .encU8, some .encI8, some .encU16, some .encI16, some .encU32, some .encI32, some .encU64, some .encI64] := by
  decide

theorem test_decode_string_operation : decode [0x21#8, 0x55#8] = .ok .encStr [0x55#8] := by decide

/-- V76 to V79: the illegal codes, and a word that is no byte. -/
theorem test_decode_rejects :
    [0x41, 0x00, 0xFF, 0x03, 0x20, 0x101].map (decodeTableWord 8) = [none, none, none, none, none, none] ∧
    decode [0x41#8] = .rejected (.unsupportedType 0x41#8) ∧ decode [] = .rejected .noByte := by
  decide

/-! ### Well-formedness: an ill-formed term for each check -/

/-- A map in which two types share a code: neither is well formed, the others are. -/
def clashing : Instr → Byte := fun i => if i = .encI8 then 0x01#8 else defaultTagCode i

theorem test_instr_ill_formed :
    Instr.wellFormed clashing .encU8 = false ∧ Instr.wellFormed clashing .encI8 = false ∧
    Instr.wellFormed clashing .encStr = true := by decide

theorem test_config_ill_formed :
    Config.wellFormed ⟨64, defaultTagCode, crcA⟩ = false ∧ Config.wellFormed ⟨32, clashing, crcA⟩ = false ∧
    Config.hardware.wellFormed = true := by decide

theorem test_host_move_ill_formed :
    (HostMove.writeKey 16 0#8).wellFormed = false ∧ (HostMove.readKey 16).wellFormed = false ∧
    (HostMove.writeVbuf 3999 0#8).wellFormed = false ∧ (HostMove.readVbuf 3999).wellFormed = false ∧
    (HostMove.readHdr 32).wellFormed = false ∧ (HostMove.readData 4000).wellFormed = false ∧
    (HostMove.readData 3999).wellFormed = true := by decide

theorem test_line_value_ill_formed :
    (LineValue.num (2 ^ 64)).wellFormed = false ∧ (LineValue.num (-(2 ^ 63) - 1)).wellFormed = false ∧
    (LineValue.num (-(2 ^ 63))).wellFormed = true ∧
    (LineValue.text (List.replicate 65536 0x78#8)).wellFormed = false := by
  refine ⟨by decide, by decide, by decide, ?_⟩
  simp only [LineValue.wellFormed, List.length_replicate]
  decide

theorem test_line_ill_formed :
    (Line.enc .encU8 256 [] (.num 0)).wellFormed = false ∧
    (Line.enc .encU8 0 (List.replicate 256 0x61#8) (.num 0)).wellFormed = false ∧
    (Line.enc .encU8 0 [] (.num (2 ^ 64))).wellFormed = false ∧
    (Line.raw 256 0 [] (.num 0)).wellFormed = false ∧ (Line.raw 0x41 256 [] (.num 0)).wellFormed = false ∧
    (Line.raw 0x41 0 (List.replicate 256 0x61#8) (.num 0)).wellFormed = false ∧
    (Line.raw 0x41 255 [] (.num 0)).wellFormed = true := by
  decide +kernel

/-! ### One step of each operation, against the vectors of the spec (`CRC_A`) -/

/-- V11. -/
theorem test_encU8 : headerAfter (numRequest 0x01#8 0x00#8 [0x61#8] 0) = some (0x02#8, some
    ([0x00#8, 0x01#8, 0x01#8, 0xFF#8, 0xA3#8, 0x01#8, 0x86#8, 0x2E#8, 0x61#8] ++ rep 0#8 15 ++ 0x00#8 :: rep 0xFF#8 7)) := by
  decide +kernel

/-- V13: truncated. -/
theorem test_encU8_truncates : headerAfter (numRequest 0x01#8 0x00#8 [0x61#8] 300) = some (0x02#8, some
    ([0x00#8, 0x01#8, 0x01#8, 0xFF#8, 0xBA#8, 0x76#8, 0x5F#8, 0x80#8, 0x61#8] ++ rep 0#8 15 ++ 0x2C#8 :: rep 0xFF#8 7)) := by
  decide +kernel

/-- V14. -/
theorem test_encI8 : headerAfter (numRequest 0x11#8 0x00#8 [0x61#8] (-1)) = some (0x02#8, some
    ([0x00#8, 0x11#8, 0x01#8, 0xFF#8, 0x10#8, 0xAC#8, 0xB9#8, 0x56#8, 0x61#8] ++ rep 0#8 15 ++ rep 0xFF#8 8)) := by
  decide +kernel

/-- V15. -/
theorem test_encI8_minimum : headerAfter (numRequest 0x11#8 0x00#8 [0x61#8] (-128)) = some (0x02#8, some
    ([0x00#8, 0x11#8, 0x01#8, 0xFF#8, 0x2C#8, 0x2F#8, 0xC9#8, 0x23#8, 0x61#8] ++ rep 0#8 15 ++ 0x80#8 :: rep 0xFF#8 7)) := by
  decide +kernel

/-- V18, the source's example S1. -/
theorem test_encU16 : headerAfter (numRequest 0x02#8 0x01#8 [0x76#8] 0x1234) = some (0x02#8, some
    ([0x01#8, 0x02#8, 0x01#8, 0xFF#8, 0x67#8, 0x03#8, 0x24#8, 0xB1#8, 0x76#8] ++ rep 0#8 15 ++
      [0x34#8, 0x12#8] ++ rep 0xFF#8 6)) := by decide +kernel

/-- Program 3, line 1: a 16-byte key. -/
theorem test_encU16_key_too_long : errorAfter (numRequest 0x02#8 0x02#8 key16 8080) = some (0x06#8, true) := by
  decide +kernel

/-- V21. -/
theorem test_encI16 : headerAfter (numRequest 0x12#8 0x00#8 [0x61#8] (-2)) = some (0x02#8, some
    ([0x00#8, 0x12#8, 0x01#8, 0xFF#8, 0x4D#8, 0x81#8, 0x87#8, 0x29#8, 0x61#8] ++ rep 0#8 15 ++ 0xFE#8 :: rep 0xFF#8 7)) := by
  decide +kernel

/-- V22. -/
theorem test_encI16_minimum : headerAfter (numRequest 0x12#8 0x00#8 [0x61#8] (-32768)) = some (0x02#8, some
    ([0x00#8, 0x12#8, 0x01#8, 0xFF#8, 0xF7#8, 0x27#8, 0x46#8, 0xD9#8, 0x61#8] ++ rep 0#8 15 ++
      [0x00#8, 0x80#8] ++ rep 0xFF#8 6)) := by decide +kernel

/-- V20, the source's example S2. -/
theorem test_encU32 : headerAfter (numRequest 0x04#8 0x01#8 keyCount 42) = some (0x02#8, some
    ([0x01#8, 0x04#8, 0x01#8, 0xFF#8, 0x06#8, 0x0E#8, 0xAC#8, 0xCD#8] ++ keyCount ++ rep 0#8 11 ++
      [0x2A#8, 0x00#8, 0x00#8, 0x00#8] ++ rep 0xFF#8 4)) := by decide +kernel

/-- V72: text given to a numeric type. -/
theorem test_encU32_type_mismatch : errorAfter (textRequest 0x04#8 0x01#8 keyCount []) = some (0x0A#8, true) := by
  decide +kernel

/-- V26. -/
theorem test_encI32 : headerAfter (numRequest 0x14#8 0x03#8 [0x69#8, 0x6D#8, 0x69#8, 0x6E#8] (-2147483648)) = some (0x02#8,
    some ([0x03#8, 0x14#8, 0x01#8, 0xFF#8, 0x1D#8, 0xFD#8, 0x79#8, 0x62#8, 0x69#8, 0x6D#8, 0x69#8, 0x6E#8] ++ rep 0#8 12 ++
      [0x00#8, 0x00#8, 0x00#8, 0x80#8] ++ rep 0xFF#8 4)) := by decide +kernel

/-- V27: namespace 255. -/
theorem test_encI32_namespace_255 : headerAfter (numRequest 0x14#8 0xFF#8 [0x6E#8, 0x65#8, 0x67#8] (-1)) = some (0x02#8, some
    ([0xFF#8, 0x14#8, 0x01#8, 0xFF#8, 0x7D#8, 0xA6#8, 0xAE#8, 0x92#8, 0x6E#8, 0x65#8, 0x67#8] ++ rep 0#8 13 ++
      rep 0xFF#8 8)) := by decide +kernel

/-- V29: a key of 15 bytes. -/
theorem test_encU64 : headerAfter (numRequest 0x08#8 0x05#8 key15 0x0102030405060708) = some (0x02#8, some
    ([0x05#8, 0x08#8, 0x01#8, 0xFF#8, 0x28#8, 0xCF#8, 0x33#8, 0xA4#8] ++ key15 ++
      [0x00#8, 0x08#8, 0x07#8, 0x06#8, 0x05#8, 0x04#8, 0x03#8, 0x02#8, 0x01#8])) := by decide +kernel

/-- V83: `vlen` is ignored by a numeric operation. -/
theorem test_encU64_ignores_vlen :
    (headerAfter { numRequest 0x08#8 0x00#8 [0x61#8, 0x62#8, 0x63#8] 0 with vlen := 65535#16 }).map Prod.fst = some 0x02#8 := by
  decide +kernel

/-- V32: an empty key. -/
theorem test_encI64 : headerAfter (numRequest 0x18#8 0x05#8 [] (-1)) = some (0x02#8, some
    ([0x05#8, 0x18#8, 0x01#8, 0xFF#8, 0x5A#8, 0x09#8, 0xFA#8, 0xA4#8] ++ rep 0#8 16 ++ rep 0xFF#8 8)) := by decide +kernel

/-- V33. -/
theorem test_encI64_minimum : headerAfter (numRequest 0x18#8 0x05#8 [0x6B#8] (-9223372036854775808)) = some (0x02#8, some
    ([0x05#8, 0x18#8, 0x01#8, 0xFF#8, 0x56#8, 0x1B#8, 0x3D#8, 0x5F#8, 0x6B#8] ++ rep 0#8 15 ++ rep 0#8 7 ++ [0x80#8])) := by
  decide +kernel

/-- The header of V40, the source's example S3. -/
def hdrV40 : List Byte :=
  [0x02#8, 0x21#8, 0x02#8, 0xFF#8, 0xE4#8, 0xBF#8, 0xDC#8, 0x54#8] ++ keyName ++ rep 0#8 12 ++
    [0x03#8, 0x00#8, 0xFF#8, 0xFF#8, 0x20#8, 0x71#8, 0x9F#8, 0xE1#8]

/-- The data buffer of V40. -/
def dataV40 : List Byte := [0x61#8, 0x62#8, 0x00#8] ++ rep 0xFF#8 29

/-- The Request of V40. -/
def requestV40 : Request := textRequest 0x21#8 0x02#8 keyName [0x61#8, 0x62#8]

/-- V40: header and data buffer. -/
theorem test_encStr : (nextOf (step (busy requestV40))).map (fun t => (t.status, t.mem.hdr, t.mem.data)) =
    some (0x02#8, bytesAt 0 hdrV40, bytesAt 0 dataV40) := by decide +kernel

/-- V45 (program 2): two data blocks, RSP_SPAN 3, RSP_DLEN 64, the terminator first in the second block. -/
theorem test_encStr_two_blocks :
    (nextOf (step (busy (textRequest 0x21#8 0x07#8 [0x6F#8, 0x76#8, 0x65#8, 0x72#8]
      ((List.range 26).map (fun k => BitVec.ofNat 8 (0x41 + k)) ++ [0x30#8, 0x31#8, 0x32#8, 0x33#8, 0x34#8, 0x35#8]))))).map
      (fun t => (t.rspSpan, t.rspDlen, readBytes t.mem.hdr 4 4, readBytes t.mem.data 3 31)) =
    some (some 0x03#8, some 64#16, some [0xAE#8, 0x94#8, 0xD3#8, 0x6E#8], some [0x35#8, 0x00#8, 0xFF#8]) := by
  decide +kernel

/-- V40 under the alternative checksum `CRC_B`. -/
theorem test_crcB_header : encodeEntry Config.hardwareB requestV40 = .ok
    ([0x02#8, 0x21#8, 0x02#8, 0xFF#8, 0x73#8, 0x17#8, 0xC0#8, 0x49#8] ++ keyName ++ rep 0#8 12 ++
      [0x03#8, 0x00#8, 0xFF#8, 0xFF#8, 0xCD#8, 0x57#8, 0x21#8, 0xE1#8]) dataV40 := by decide +kernel

/-- One step of other instances: V40 under `CRC_B` (its checksum bytes), and `ENC.U32` of 42 (V20's data field) under a
type-tag map whose codes are 0x40 higher, where the default code is no code (R87). -/
theorem test_stepAt_takes_the_parameters :
    (nextOf (stepAt Config.hardwareB (busy requestV40))).map (fun t => (t.status, readBytes t.mem.hdr 4 4)) =
      some (0x02#8, some [0x73#8, 0x17#8, 0xC0#8, 0x49#8]) ∧
    (nextOf (stepAt ⟨32, fun i => defaultTagCode i + 0x40#8, crcA⟩ (busy (numRequest 0x44#8 0x01#8 keyCount 42)))).map
      (fun t => (t.status, readBytes t.mem.hdr 4 24)) =
      some (0x02#8, some [0x2A#8, 0x00#8, 0x00#8, 0x00#8]) ∧
    (nextOf (stepAt ⟨32, fun i => defaultTagCode i + 0x40#8, crcA⟩ (busy (numRequest 0x04#8 0x01#8 keyCount 42)))).map
      State.status = some 0x12#8 := by decide +kernel

/-! ### Errors, host moves and the placing of an operation -/

/-- V74, V76 and V80: the other errors and their priority. -/
theorem test_errors :
    errorAfter { textRequest 0x21#8 0x02#8 keyName [] with vlen := 4000#16 } = some (0x0E#8, true) ∧
    errorAfter (numRequest 0x41#8 0x02#8 keyPort 8080) = some (0x12#8, true) ∧
    errorAfter (numRequest 0x41#8 0x02#8 key16 8080) = some (0x06#8, true) := by decide +kernel

/-- R252, R254, R62: the host's mistakes end in the named faults. -/
theorem test_host_faults :
    faultOf (hostMove (.readHdr 0) State.reset) = some .responseHoldsNoValue ∧
    faultOf (hostMove (.writeNs 0#8) (busy requestV40)) = some .hostWriteWhileBusy ∧
    faultOf (hostMove (.readKey 0) State.reset) = some .requestByteHoldsNoValue ∧
    faultOf (hostMove (.readKey 16) State.reset) = some .noSuchOffset := by decide

/-- R116, R252: START has its effect with nothing written; an operation with a port it does not read unwritten runs; the
block's read of a byte never written stops. -/
theorem test_unwritten_fields :
    (nextOf (hostMove .start State.reset)).map State.status = some 0x01#8 ∧
    (nextOf (step (startOperation { idle requestV40 with written := ⟨true, true, true, true, false, true⟩ }))).map State.status =
      some 0x02#8 ∧
    faultOf (step (busy { numRequest 0x02#8 0x02#8 keyPort 0 with klen := 5#8 })) = some .requestByteHoldsNoValue := by decide +kernel

/-- A table word placed at reset is run by the very next step. -/
theorem test_placed_operations_run :
    [0x01, 0x11, 0x02, 0x12, 0x04, 0x14, 0x08, 0x18].map
      (fun w => (nextOf (step (State.reset.withFetchWord 8 w))).map State.status) = List.replicate 8 (some 0x02#8) ∧
    (nextOf (step (State.reset.withFetchWord 8 0x21))).map State.status = some 0x0A#8 := by decide +kernel

/-- The turns of a line (R94) are as many as the moves it stands for. -/
theorem test_line_turns :
    (Line.enc .encU32 1 keyCount (.num 42)).turns.length = 12 ∧ Line.reset.turns = [.host .reset] := by decide

/-! ### Witnesses: states and operands that meet the hypotheses of each statement -/

/-- A numeric Request, `port = 8080` in 16 bits. -/
def requestPort : Request := numRequest 0x02#8 0x02#8 keyPort 8080

/-- After the operation of V40. -/
def succeeded : State := afterEntry (idle requestV40) hdrV40 dataV40 0x02#8
  [[0x61#8, 0x62#8, 0x00#8], crcScope hdrV40]

/-- After an operation with an unsupported type. -/
def failed : State := afterError (idle (numRequest 0x41#8 0x02#8 keyPort 8080)) 0x12#8

theorem inv_idle (r : Request) (hk : risingFrom 0 16 r.key = true) (hv : risingFrom 0 3999 r.vbuf = true) : Inv (idle r) := by
  have hs : (idle r).status = statusIdle := rfl
  refine ⟨(memory_wf_iff _).mpr ⟨hk, hv, rfl, rfl⟩, by simp [hs], ?_, ?_, rfl⟩
  · simp only [responseInv, hs, statusSucceeded_idle, Bool.false_eq_true, if_false]
    exact ⟨rfl, rfl, rfl, rfl⟩
  · simp only [requestInv, hs, phaseOf_idle, reduceCtorEq, if_false]
    rfl

theorem inv_busy (r : Request) (hk : risingFrom 0 16 r.key = true) (hv : risingFrom 0 3999 r.vbuf = true) :
    Inv (busy r) := by
  have hs : (busy r).status = statusStarted := rfl
  refine ⟨memory_wf_startOperation (inv_idle r hk hv).1, by simp [hs], ?_, ?_, rfl⟩
  · simp only [responseInv, hs, statusSucceeded_started, Bool.false_eq_true, if_false]
    exact ⟨rfl, rfl, rfl, rfl⟩
  · simp only [requestInv, hs, phaseOf_started, if_true]
    rfl

theorem inv_busy_string : Inv (busy requestV40) := inv_busy _ (by decide) (by decide)

theorem inv_busy_number : Inv (busy requestPort) := inv_busy _ (by decide) (by decide)

theorem inv_succeeded : Inv succeeded := by
  have hs : succeeded.status = 0x02#8 := rfl
  refine ⟨by decide, by simp [hs], ?_, ?_, rfl⟩
  · simp only [responseInv, hs, statusSucceeded_succeeded, if_true]
    exact ⟨requestV40, hdrV40, dataV40, by decide +kernel, rfl, rfl, rfl, rfl⟩
  · simp only [requestInv, hs, phaseOf_succeeded, reduceCtorEq, if_false]
    rfl

theorem inv_failed : Inv failed := by
  have hs : failed.status = statusEnded (errorCode .unsupportedType) := rfl
  refine ⟨by decide, by decide, ?_, ?_, rfl⟩
  · simp only [responseInv, hs, statusSucceeded_error, Bool.false_eq_true, if_false]
    exact ⟨rfl, rfl, rfl, rfl⟩
  · simp only [requestInv, hs, phaseOf_error, reduceCtorEq, if_false]
    rfl

theorem witness_ResetMoveForgetsEverythingButTheRequestSide :
    busy requestV40 ≠ succeeded ∧ (busy requestV40).reqNs = succeeded.reqNs ∧ (busy requestV40).reqType = succeeded.reqType ∧
    (busy requestV40).reqKlen = succeeded.reqKlen ∧ (busy requestV40).reqVkind = succeeded.reqVkind ∧
    (busy requestV40).reqVnum = succeeded.reqVnum ∧ (busy requestV40).reqVlen = succeeded.reqVlen ∧
    (busy requestV40).mem.key = succeeded.mem.key ∧ (busy requestV40).mem.vbuf = succeeded.mem.vbuf ∧
    (busy requestV40).written = succeeded.written ∧ (busy requestV40).pending = succeeded.pending ∧
    (busy requestV40).readout = succeeded.readout ∧
    ∃ t t', hostMove .reset (busy requestV40) = .next t ∧ hostMove .reset succeeded = .next t' :=
  ⟨by decide, rfl, rfl, rfl, rfl, rfl, rfl, rfl, rfl, rfl, rfl, rfl, _, _, rfl, rfl⟩

theorem witness_EveryStepKeepsTheInvariant : ∃ s t : State, Inv s ∧ step s = .next t ∧ phaseOf s.status ≠ phaseOf t.status :=
  ⟨busy (numRequest 0x41#8 0x02#8 keyPort 8080), _, inv_busy _ (by decide) (by decide), rfl, by decide⟩

/-- An instance with other codes and another checksum, in a state of its invariant from which it steps. -/
theorem witness_EveryStepKeepsTheInvariantAtAnyParameters :
    ∃ (c : Config) (s t : State), c.tagCode .encU16 ≠ defaultTagCode .encU16 ∧ InvAt c s ∧ stepAt c s = .next t := by
  refine ⟨⟨32, fun i => defaultTagCode i + 0x40#8, crcB⟩, idle requestPort, idle requestPort, by decide, ?_, rfl⟩
  exact inv_idle requestPort (by decide) (by decide)

theorem witness_BusyBlockAlwaysReachesDone :
    (Inv (busy requestV40) ∧ phaseOf (busy requestV40).status = .busy ∧
      bytesHeld Config.hardware (requestOf (busy requestV40)) = true ∧ (busy requestV40).pending = []) ∧
    (Inv { busy requestV40 with pending := [.block] } ∧
      ({ busy requestV40 with pending := [.block] } : State).pending.head? = some .block) :=
  ⟨⟨inv_busy_string, rfl, by decide, rfl⟩, inv_busy_string, rfl⟩

theorem witness_VisibleResponseIsCompleteAndConsistent : Inv succeeded ∧ statusSucceeded succeeded.status = true :=
  ⟨inv_succeeded, rfl⟩

theorem witness_StepRunsTheDecodedOperation :
    phaseOf (busy requestPort).status = .busy ∧ (busy requestPort).taken = some requestPort ∧
    decode [requestPort.type] = .ok .encU16 [] ∧ (busy requestPort).pending = [] ∧
    ({ busy requestPort with pending := [.block, .host .readStatus] } : State).pending = .block :: [.host .readStatus] :=
  ⟨rfl, rfl, rfl, rfl, rfl⟩

theorem witness_OtherTurnsMakeTheHostsMoveOrNothing :
    ({ idle requestPort with pending := [.host .start] } : State).pending = .host .start :: [] ∧
    phaseOf (idle requestPort).status ≠ .busy ∧ (idle requestPort).pending = [] ∧ phaseOf failed.status ≠ .busy :=
  ⟨rfl, by decide, rfl, by decide⟩

theorem witness_HostTurnsAreTheSameAtAnyParameters :
    Config.hardwareB.blockSize = 32 ∧ phaseOf (idle requestV40).status ≠ .busy ∧
    ({ idle requestV40 with pending := [.host .start] } : State).pending = .host .start :: [] ∧
    phaseOf (busy requestV40).status = .busy ∧
    ({ busy requestV40 with pending := [.host .start] } : State).pending = .host .start :: [] := by decide

theorem witness_TypeTagMapRoundTrips :
    Instr.wellFormed (fun i => defaultTagCode i + 0x40#8) .encStr = true ∧
    decodeWith (fun i => defaultTagCode i + 0x40#8) (0x54#8 :: [0x21#8]) = .ok .encI32 [0x21#8] ∧
    Instr.wellFormed defaultTagCode .encStr = true ∧ selectType defaultTagCode 0x21#8 = some .encStr ∧
    decode (0x14#8 :: [0x21#8]) = .ok .encI32 [0x21#8] := by decide

theorem witness_OtherTypeBytesEndWithUnsupportedType :
    let r := numRequest 0x41#8 0x02#8 key15 8080
    phaseOf (busy r).status = .busy ∧ (busy r).taken = some r ∧ (∀ i, r.type ≠ defaultTagCode i) ∧
      r.klen.toNat = 15 :=
  ⟨rfl, rfl, by intro i; cases i <;> decide, by decide⟩

theorem witness_EncodeIsTotal :
    bytesHeld Config.hardware requestV40 = true ∧ bytesHeld Config.hardware requestPort = true ∧
    bytesHeld Config.hardware (numRequest 0x41#8 0x02#8 key16 8080) = true := by decide

/-- A checksum function that detects every single-bit change: the exclusive or of all bytes. -/
def foldSum (bytes : List Byte) : Vector Byte 4 := #v[bytes.foldr (· ^^^ ·) 0#8, 0#8, 0#8, 0#8]

theorem foldr_flip (b : Nat) : ∀ (bytes : List Byte) (i : Nat), i < bytes.length →
    (flipBit bytes i b).foldr (· ^^^ ·) 0#8 = bytes.foldr (· ^^^ ·) 0#8 ^^^ (1#8 <<< b)
  | x :: xs, 0, _ => by
    simp only [flipBit, List.modify_zero_cons, List.foldr_cons, BitVec.xor_assoc]
    rw [BitVec.xor_comm (1#8 <<< b)]
  | x :: xs, i + 1, h => by
    have ih := foldr_flip b xs i (by simpa using h)
    simp only [flipBit, List.modify_succ_cons, List.foldr_cons, BitVec.xor_assoc] at ih ⊢
    rw [ih]

theorem foldSum_singleBitDetect : SingleBitDetect foldSum := by
  intro bytes i b hi hb h
  have h0 : (flipBit bytes i b).foldr (· ^^^ ·) 0#8 = bytes.foldr (· ^^^ ·) 0#8 := by
    have := congrArg (fun v => v[0]) h
    simpa [foldSum] using this
  rw [foldr_flip b bytes i hi] at h0
  generalize bytes.foldr (· ^^^ ·) 0#8 = z at h0
  have hz : 1#8 <<< b = 0#8 := by
    rw [← BitVec.xor_zero (x := z), BitVec.xor_assoc] at h0
    simpa using (BitVec.xor_right_inj z).mp h0
  rcases b with _ | _ | _ | _ | _ | _ | _ | _ | b <;> first | omega | exact absurd hz (by decide)

theorem witness_EncodedEntryLaws :
    (encodeEntry Config.hardware requestV40 = .ok hdrV40 dataV40 ∧
      selectType Config.hardware.tagCode requestV40.type = some .encStr ∧ Instr.width .encStr = none) ∧
    (∃ hdr, encodeEntry Config.hardware requestPort = .ok hdr [] ∧
      selectType Config.hardware.tagCode requestPort.type = some .encU16 ∧ Instr.width .encU16 = some 2) ∧
    (∃ hdr data, encodeEntry ⟨32, defaultTagCode, foldSum⟩ requestV40 = .ok hdr data) ∧ SingleBitDetect foldSum :=
  ⟨⟨by decide +kernel, rfl, rfl⟩, ⟨_, rfl, rfl, rfl⟩, ⟨_, _, rfl⟩, foldSum_singleBitDetect⟩

theorem witness_CompleteWritesWhatEncodeReturns :
    (phaseOf (busy requestV40).status = .busy ∧ (busy requestV40).taken = some requestV40 ∧
      encodeEntry Config.hardware requestV40 = .ok hdrV40 dataV40) ∧
    (∃ r e, phaseOf (busy r).status = .busy ∧ (busy r).taken = some r ∧
      encodeEntry Config.hardware r = .err e) ∧
    (let r : Request := { requestV40 with key := [] };
      phaseOf (busy r).status = .busy ∧ (busy r).taken = some r ∧ encodeEntry Config.hardware r = .noValue) :=
  ⟨⟨rfl, rfl, by decide +kernel⟩, ⟨numRequest 0x41#8 0x02#8 keyPort 8080, .unsupportedType, rfl, rfl, rfl⟩, rfl, rfl, rfl⟩

theorem witness_CompleteWritesWhatEncodeReturnsAtAnyParameters :
    (Config.hardwareB.blockSize = 32 ∧ phaseOf (busy requestV40).status = .busy ∧
      (busy requestV40).taken = some requestV40 ∧ (busy requestV40).pending = []) ∧
    (∃ hdr, encodeEntry Config.hardwareB requestV40 = .ok hdr dataV40) ∧
    encodeEntry Config.hardwareB (numRequest 0x41#8 0x02#8 keyPort 0) = .err .unsupportedType ∧
    encodeEntry Config.hardwareB { requestV40 with key := [] } = .noValue :=
  ⟨⟨rfl, rfl, rfl, rfl⟩, ⟨_, rfl⟩, rfl, rfl⟩

/-- Each cause alone, at its boundary: 16 bytes of key, text for a number, number for a text, 4000 bytes of text, `0x41`. -/
theorem witness_EachErrorHasItsCondition :
    encodeEntry Config.hardware (numRequest 0x02#8 0x02#8 key16 0) = .err .keyTooLong ∧
    (numRequest 0x02#8 0x02#8 key16 0).klen.toNat = 16 ∧
    encodeEntry Config.hardware (textRequest 0x02#8 0x02#8 key15 []) = .err .typeMismatch ∧
    encodeEntry Config.hardware (numRequest 0x21#8 0x02#8 key15 0) = .err .typeMismatch ∧
    encodeEntry Config.hardware { textRequest 0x21#8 0x02#8 key15 [] with vlen := 4000#16 } = .err .valueTooLarge ∧
    encodeEntry Config.hardware (numRequest 0x41#8 0x02#8 key15 0) = .err .unsupportedType := by decide

theorem witness_EachErrorHasItsCondition_only_cause :
    let r := numRequest 0x02#8 0x02#8 key16 0
    causeHolds Config.hardware r .keyTooLong ∧ ∀ e, causeHolds Config.hardware r e → e = .keyTooLong := by
  refine ⟨show 15 < (numRequest 0x02#8 0x02#8 key16 0).klen.toNat by decide, ?_⟩
  have hs : selectType Config.hardware.tagCode 0x02#8 = some .encU16 := rfl
  intro e h
  cases e with
  | keyTooLong => rfl
  | typeMismatch =>
    obtain ⟨i, hi, h⟩ := h
    have := hs.symm.trans hi
    cases this
    rcases h with ⟨_, h⟩ | ⟨h, _⟩ <;> exact absurd h (by decide)
  | valueTooLarge => exact absurd h.2.1 (by decide)
  | unsupportedType => exact absurd rfl (h .encU16)

/-- Two causes: a 16-byte key with text of 4000 bytes (V81), and one cause without a long key (V74). -/
theorem witness_PriorityOfErrors :
    (let r : Request := { textRequest 0x21#8 0x02#8 key16 [] with vlen := 4000#16 };
      causeHolds Config.hardware r .keyTooLong ∧ causeHolds Config.hardware r .valueTooLarge) ∧
    (let r : Request := { textRequest 0x21#8 0x02#8 key15 [] with vlen := 4000#16 };
      causeHolds Config.hardware r .valueTooLarge ∧ ¬ causeHolds Config.hardware r .keyTooLong) := by
  simp only [causeHolds]
  decide

/-- Stale bytes in KEY, high bits of the number and the length port differ; what the operation reads agrees. -/
theorem witness_EncodeReadsOnlyItsFields_number :
    let r := numRequest 0x01#8 0x00#8 [0x61#8] 0xFFFFFFFFFFFFFF2C
    let r' : Request := { numRequest 0x01#8 0x00#8 [0x61#8] 0x2C with
      key := [(0, 0x61#8), (1, 0xAA#8)], vlen := 7#16, vbuf := [(0, 0x55#8)] }
    r ≠ r' ∧ selectType Config.hardware.tagCode r.type = some .encU8 ∧ agreeOnRead .encU8 r r' := by
  refine ⟨by decide, rfl, rfl, rfl, rfl, rfl, ?_, rfl⟩
  intro a ha
  have : a = 0 := by simp [numRequest] at ha; omega
  subst this
  rfl

theorem witness_EncodeReadsOnlyItsFields_text :
    let r := requestV40
    let r' : Request := { requestV40 with vnum := 1#64, vbuf := [(0, 0x61#8), (1, 0x62#8), (2, 0x63#8)] }
    r ≠ r' ∧ selectType Config.hardware.tagCode r.type = some .encStr ∧ agreeOnRead .encStr r r' := by
  refine ⟨by decide, rfl, rfl, rfl, rfl, rfl, fun a _ => rfl, rfl, ?_⟩
  intro a ha
  have : a = 0 ∨ a = 1 := by simp [requestV40, textRequest] at ha; omega
  rcases this with rfl | rfl <;> rfl

theorem witness_EncodeReadsOnlyItsFields_unsupported :
    selectType Config.hardware.tagCode (numRequest 0x41#8 1#8 keyPort 1).type = none ∧
    numRequest 0x41#8 1#8 keyPort 1 ≠ numRequest 0x41#8 2#8 keyName 2 ∧
    (numRequest 0x41#8 1#8 keyPort 1).type = (numRequest 0x41#8 2#8 keyName 2).type ∧
    (numRequest 0x41#8 1#8 keyPort 1).klen = (numRequest 0x41#8 2#8 keyName 2).klen := by decide

/-- For each of the eight numeric operations (the four statements on 8, 16, 32 and 64 bits): a key of 15 bytes with a
number, the same with text, and a key of 16 bytes. -/
theorem witness_NumericOperations :
    ∀ code ∈ [0x01#8, 0x11#8, 0x02#8, 0x12#8, 0x04#8, 0x14#8, 0x08#8, 0x18#8],
      let r := numRequest code 0x02#8 key15 0xFFFFFFFFFFFFFFFF
      let t := textRequest code 0x02#8 key15 []
      let k := numRequest code 0x02#8 key16 0
      ((busy r).taken = some r ∧ r.type = code ∧ r.klen.toNat = 15 ∧ r.vkind = 0#1 ∧ keyBytes r = some key15) ∧
      ((busy t).taken = some t ∧ t.type = code ∧ t.klen.toNat = 15 ∧ t.vkind = 1#1) ∧
      ((busy k).taken = some k ∧ k.type = code ∧ k.klen.toNat = 16) := by decide +kernel

/-- The longest text, 3999 bytes. -/
def longText : List Byte := List.replicate 3999 0x78#8

theorem witness_StringOperation :
    let long := textRequest 0x21#8 0x09#8 key15 longText
    ((busy long).taken = some long ∧ long.type = 0x21#8 ∧ long.klen.toNat = 15 ∧ long.vkind = 1#1 ∧
      long.vlen.toNat + 1 = 4000 ∧ keyBytes long = some key15 ∧ textBytes long = some longText) ∧
    (let long4000 : Request := { long with vlen := 4000#16 };
      (busy long4000).taken = some long4000 ∧ long4000.klen.toNat ≤ 15 ∧ long4000.vkind = 1#1 ∧ 4000 < long4000.vlen.toNat + 1) ∧
    (let num := numRequest 0x21#8 0x09#8 key15 0;
      (busy num).taken = some num ∧ num.klen.toNat ≤ 15 ∧ num.vkind = 0#1) ∧
    (let key := textRequest 0x21#8 0x09#8 key16 [];
      (busy key).taken = some key ∧ 15 < key.klen.toNat) := by
  have hl : longText.length = 3999 := List.length_replicate
  have ht : (BitVec.ofNat 16 longText.length).toNat = 3999 := by rw [hl]; rfl
  refine ⟨⟨rfl, rfl, rfl, rfl, ?_, by decide, ?_⟩, ⟨rfl, by decide, rfl, by decide⟩, ⟨rfl, by decide, rfl⟩, rfl, by decide⟩
  · exact congrArg (· + 1) ht
  · show readBytes (bytesAt 0 longText) (BitVec.ofNat 16 longText.length).toNat 0 = some longText
    rw [ht, ← hl]
    exact readBytes_bytesAt longText

theorem witness_ErrorRecordsOnlyItsCode :
    ∀ r ∈ [numRequest 0x02#8 0x02#8 key16 0, numRequest 0x21#8 0x02#8 key15 0, numRequest 0x41#8 0x02#8 keyPort 0,
        { textRequest 0x21#8 0x02#8 keyName [] with vlen := 4000#16 }],
      phaseOf (busy r).status = .busy ∧ (busy r).taken = some r ∧
        (encodeEntry Config.hardware r = .err .keyTooLong ∨ encodeEntry Config.hardware r = .err .typeMismatch ∨
          encodeEntry Config.hardware r = .err .unsupportedType ∨ encodeEntry Config.hardware r = .err .valueTooLarge) := by
  decide +kernel

theorem witness_OperationsFrame :
    (∃ t, exec .encStr (busy requestV40) = .next t ∧ t.rspDlen = some 32#16) ∧
    (∃ t, exec .encU16 (busy requestPort) = .next t ∧ t.rspDlen = some 0#16) :=
  ⟨⟨_, rfl, by decide +kernel⟩, ⟨_, rfl, by decide +kernel⟩⟩

theorem witness_NothingIsCarriedBetweenOperations :
    busy requestPort ≠ { succeeded with taken := some requestPort } ∧
    (busy requestPort).taken = ({ succeeded with taken := some requestPort } : State).taken ∧
    ∃ t, exec .encU16 (busy requestPort) = .next t :=
  ⟨by decide, rfl, _, rfl⟩

theorem witness_ChecksumCallsOfAnOperation :
    (∃ t, (busy requestV40).taken = some requestV40 ∧ exec .encStr (busy requestV40) = .next t ∧
      statusErr t.status = 0#3) ∧
    (∃ t, (busy requestPort).taken = some requestPort ∧ exec .encU16 (busy requestPort) = .next t ∧
      statusErr t.status = 0#3) ∧
    (∃ t, exec .encStr (busy requestPort) = .next t ∧ statusErr t.status ≠ 0#3) :=
  ⟨⟨_, rfl, rfl, by decide⟩, ⟨_, rfl, rfl, by decide⟩, ⟨_, rfl, by decide⟩⟩

theorem witness_KeyFieldIsInjectiveWithoutZeroBytes :
    key15.length ≤ 15 ∧ (0x00#8 ∉ key15) ∧ keyField key15 = keyField key15 := by decide

/-- The ends of each type's range. -/
theorem witness_InRangeValuesCanBeReadBack :
    (Instr.width .encU8 = some 1 ∧ inRange .encU8 255#64) ∧ (Instr.width .encI8 = some 1 ∧ inRange .encI8 (-128#64)) ∧
    (Instr.width .encU16 = some 2 ∧ inRange .encU16 65535#64) ∧ (Instr.width .encI16 = some 2 ∧ inRange .encI16 32767#64) ∧
    (Instr.width .encU32 = some 4 ∧ inRange .encU32 0xFFFFFFFF#64) ∧
    (Instr.width .encI32 = some 4 ∧ inRange .encI32 (-2147483648#64)) ∧
    (Instr.width .encU64 = some 8 ∧ inRange .encU64 (-1#64)) ∧ (Instr.width .encI64 = some 8 ∧ inRange .encI64 (-1#64)) ∧
    (300 % 2 ^ (8 * 1) = 44 % 2 ^ (8 * 1)) := by
  simp only [inRange, Instr.width, Instr.signed]
  decide

theorem witness_WholeDataFieldAsOneInteger :
    (Instr.width .encI16 = some 2 ∧ Instr.signed .encI16 = some true ∧ inRange .encI16 (-2#64) ∧ (-2#64 : BitVec 64).toInt < 0) ∧
    (Instr.width .encU32 = some 4 ∧ (4 : Nat) < 8 ∧ 0 ≤ (42#64 : BitVec 64).toInt) := by
  simp only [inRange, Instr.width, Instr.signed]
  decide

theorem witness_SpanAndLengthRanges : ∀ l ∈ [1, 32, 33, 3968, 3969, 4000], 1 ≤ l ∧ l ≤ 4000 := by decide

theorem witness_BlockCounterBuildsTheDataBuffer : payloadOf [0x61#8, 0x62#8] ≠ [] := by decide

theorem witness_ChunkingIntoBlocks :
    (longText.length ≤ 3999 ∧ hdrV40.length = 32 ∧ 1 ≤ 125 ∧ 125 ≤ stringSpan (payloadOf longText).length - 1 ∧
      124 ≤ stringSpan (payloadOf longText).length - 2) := by
  have hl : (payloadOf longText).length = 4000 := by
    rw [length_payloadOf, longText, List.length_replicate]
  rw [hl]
  exact ⟨Nat.le_of_eq List.length_replicate, by decide, by decide, by decide, by decide⟩

theorem witness_StringDataFieldBytes :
    ∀ l ∈ [1, 255, 256, 4000], 1 ≤ l ∧ l ≤ 4000 ∧ [0x20#8, 0x71#8, 0x9F#8, 0xE1#8].length = 4 := by decide

theorem witness_UnwrittenChecksumBytesDoNotMatter :
    (rep 0x00#8 4).length = 4 ∧ (rep 0xFF#8 4).length = 4 ∧ [0x06#8, 0x0E#8, 0xAC#8, 0xCD#8].length = 4 := by decide

theorem witness_ScopeIsTheHeaderWithoutItsChecksum :
    hdrV40.length = 32 ∧ ∀ i ∈ [0, 3, 4, 27], i < 28 := by decide

theorem witness_ChecksumsDetectEverySingleBitChange : 27 < (crcScope hdrV40).length ∧ 7 < 8 := by decide

theorem witness_OtherBlockSizesAreRefused : (⟨64, defaultTagCode, crcA⟩ : Config).blockSize ≠ 32 := by decide

theorem witness_StartTakesTheRequest :
    phaseOf State.reset.status ≠ .busy ∧ phaseOf succeeded.status ≠ .busy ∧ phaseOf failed.status ≠ .busy ∧
    phaseOf (busy requestV40).status = .busy := by decide

/-- Each clause: the last byte of the key and of the text missing, and every byte held with no port written. -/
theorem witness_CompleteNeedsTheBytesTheOperationReads :
    (let r : Request := { requestPort with klen := 5#8 };
      phaseOf (busy r).status = .busy ∧ (busy r).taken = some r ∧ selectType defaultTagCode r.type = some .encU16 ∧
      validateFor .encU16 r = none ∧ 4 < r.klen.toNat ∧ readByte r.key 4 = none) ∧
    (let r : Request := { requestV40 with vlen := 3#16 };
      phaseOf (busy r).status = .busy ∧ (busy r).taken = some r ∧ selectType defaultTagCode r.type = some .encStr ∧
      validateFor .encStr r = none ∧ 2 < r.vlen.toNat ∧ readByte r.vbuf 2 = none) ∧
    (let s : State := { busy requestV40 with written := State.reset.written };
      phaseOf s.status = .busy ∧ s.taken = some requestV40 ∧ selectType defaultTagCode requestV40.type = some .encStr ∧
      validateFor .encStr requestV40 = none ∧
      (∀ j, j < 4 → (readByte requestV40.key j).isSome = true) ∧ requestV40.klen.toNat = 4 ∧
      (∀ j, j < 2 → (readByte requestV40.vbuf j).isSome = true) ∧ requestV40.vlen.toNat = 2) := by decide +kernel

/-- Right after reset, with another value in the register of REQ_NS: START, and a read of that port. -/
theorem witness_NoUnwrittenPortReachesTheBlockOrTheHost :
    phaseOf State.reset.status ≠ .busy ∧ State.reset.written.ns = false ∧ State.reset.reqNs ≠ 0x07#8 ∧
    (∃ t, hostMove .start State.reset = .next t) ∧ (∃ t, hostMove .readNs State.reset = .next t) :=
  ⟨by decide, rfl, by decide, ⟨_, rfl⟩, _, rfl⟩

theorem witness_ResponseReadsFaultWithoutAValue :
    (Inv failed ∧ statusSucceeded failed.status = false) ∧
    (Inv succeeded ∧ statusSucceeded succeeded.status = true ∧ succeeded.rspSpan = some 0x02#8 ∧ succeeded.rspDlen = some 32#16 ∧
      readByte succeeded.mem.hdr 31 = some 0xE1#8 ∧ readByte succeeded.mem.data 31 = some 0xFF#8 ∧
      readByte succeeded.mem.data 32 = none) :=
  ⟨⟨inv_failed, rfl⟩, inv_succeeded, rfl, rfl, by decide, by decide, by decide, by decide⟩

theorem witness_HostReadsHaveNoSideEffect :
    (∃ t, hostMove .readDlen succeeded = .next t) ∧ (∃ t, hostMove (.readData 31) succeeded = .next t) ∧
    (∃ t, hostMove (.readKey 3) succeeded = .next t) ∧ (∃ t, hostMove .readStatus (busy requestPort) = .next t) ∧
    readByte (idle (numRequest 0x08#8 0x05#8 key15 0)).mem.key 14 = some 0x6F#8 ∧
    readByte (idle requestV40).mem.vbuf 1 = some 0x62#8 :=
  ⟨⟨_, rfl⟩, ⟨_, rfl⟩, ⟨_, rfl⟩, ⟨_, rfl⟩, rfl, rfl⟩

theorem witness_HostWritesOutsideBusyOnly :
    phaseOf (busy requestPort).status = .busy ∧ phaseOf (idle requestPort).status ≠ .busy ∧ 15 < 16 ∧ 3998 < 3999 := by
  decide

theorem witness_ErrorStaysUntilStartOrReset :
    (phaseOf failed.status = .done ∧ failed.pending.head? ≠ some (.host .start) ∧
      failed.pending.head? ≠ some (.host .reset) ∧ ∃ t, step failed = .next t) ∧
    (∃ t, step { failed with pending := [.host (.writeNs 1#8)] } = .next t) :=
  ⟨⟨rfl, by decide, by decide, _, rfl⟩, _, rfl⟩

/-- A number's line, a text's line with a key too long, and RESET. -/
theorem witness_OneLineRunsToDone :
    ∀ l ∈ [Line.enc .encU32 1 keyCount (.num 42), Line.raw 0x41 255 key16 (.text [0x61#8]), Line.reset],
      l.wellFormed = true ∧ Inv { idle requestPort with pending := l.turns } ∧
      phaseOf ({ idle requestPort with pending := l.turns } : State).status ≠ .busy := by
  intro l hl
  have hi : ∀ p, Inv { idle requestPort with pending := p } := fun _ => inv_idle requestPort (by decide) (by decide)
  simp only [List.mem_cons, List.not_mem_nil, or_false] at hl
  rcases hl with rfl | rfl | rfl <;> exact ⟨by decide, hi _, by decide⟩

end Sys2Proof.Tests
end

section
/-!
PROOFS. The data field read as one integer (20_memory.md R54): the value's bytes, then all ones above.
-/

namespace Sys2Proof.Machine

/-- Little-endian: the bytes that follow weigh `256` per byte before them (R15). -/
theorem leValue_append : ∀ a b : List Byte, leValue (a ++ b) = leValue a + 256 ^ a.length * leValue b
  | [], b => by simp [leValue]
  | x :: a, b => by
    simp only [List.cons_append, leValue, leValue_append a b, List.length_cons, Nat.pow_succ', Nat.mul_add,
      Nat.mul_assoc, Nat.add_assoc]

/-- `n` fill bytes `0xFF` are `8 n` one bits. -/
theorem leValue_rep_padData_add_one (n : Nat) : leValue (rep padData n) + 1 = 256 ^ n := by
  induction n with
  | zero => rfl
  | succ n ih =>
    have hcons : leValue (rep padData (n + 1)) = 255 + 256 * leValue (rep padData n) := rfl
    rw [hcons, Nat.pow_succ, ← ih]
    omega

/-- The whole numeric data field as one integer: the low `8 w` bits of the value, all ones above (R54). -/
theorem leValue_numField {w : Nat} (v : Nat) (hw : w ≤ 8) :
    leValue (numField w v) = v % 2 ^ (8 * w) + (2 ^ 64 - 2 ^ (8 * w)) := by
  have hpow : 256 ^ w = 2 ^ (8 * w) := (Nat.pow_mul 2 8 w).symm
  have hsplit : 256 ^ w * 256 ^ (8 - w) = 2 ^ 64 :=
    calc 256 ^ w * 256 ^ (8 - w) = 256 ^ (w + (8 - w)) := (Nat.pow_add 256 w (8 - w)).symm
      _ = 256 ^ 8 := by rw [Nat.add_sub_cancel' hw]
      _ = 2 ^ 64 := rfl
  have hlow : leValue (leBytes w (v % 2 ^ (8 * w))) = v % 2 ^ (8 * w) := by
    rw [leValue_leBytes, hpow, Nat.mod_mod]
  have hhigh : 256 ^ w * leValue (rep padData (8 - w)) = 2 ^ 64 - 2 ^ (8 * w) := by
    rw [Nat.eq_sub_of_add_eq (leValue_rep_padData_add_one (8 - w)), Nat.mul_sub, hsplit, hpow, Nat.mul_one]
  rw [numField, leValue_append, length_leBytes, hlow]
  exact congrArg _ hhigh

/-- A value whose bits above the low `8 w` are all ones is what the field reads as. -/
theorem leValue_numField_eq_self {w n : Nat} (hw : w ≤ 8) (hlo : 2 ^ 64 - 2 ^ (8 * w) ≤ n) (hhi : n < 2 ^ 64) :
    leValue (numField w n) = n := by
  have hdvd : 2 ^ (8 * w) ∣ 2 ^ 64 - 2 ^ (8 * w) :=
    Nat.dvd_sub (Nat.pow_dvd_pow 2 (by omega)) (Nat.dvd_refl _)
  obtain ⟨q, hq⟩ := hdvd
  have hmod : n % 2 ^ (8 * w) = n - (2 ^ 64 - 2 ^ (8 * w)) := by
    rw [hq, ← Nat.sub_mul_mod (hq ▸ hlo), ← hq, Nat.mod_eq_of_lt (by omega)]
  rw [leValue_numField n hw, hmod, Nat.sub_add_cancel hlo]

/-- An in-range negative value is sign-extended: its bits above the low `8 w` are all ones (R141). -/
theorem le_toNat_of_inRange_of_neg {i : Instr} {w : Nat} {v : BitVec 64} (hw : i.width = some w)
    (hs : i.signed = some true) (hr : inRange i v) (hneg : v.toInt < 0) : 2 ^ 64 - 2 ^ (8 * w) ≤ v.toNat := by
  simp only [inRange, hw, hs] at hr
  have hhalf : (2 : Int) ^ (8 * w - 1) ≤ (2 ^ (8 * w) : Nat) := by
    exact_mod_cast Nat.pow_le_pow_right (by decide) (Nat.sub_le _ _)
  have hint : v.toInt = v.toNat - 2 ^ 64 := by
    rw [BitVec.toInt_eq_toNat_cond, if_neg (Nat.not_lt.mpr (BitVec.toInt_neg_iff.mp hneg))]
    rfl
  omega

/-- For a type narrower than 64 bits the field's top bit is a one bit. -/
theorem le_leValue_numField {w : Nat} (v : Nat) (hw : w < 8) : 2 ^ 63 ≤ leValue (numField w v) := by
  have hpow : 2 ^ (8 * w) ≤ 2 ^ 56 := Nat.pow_le_pow_right (by decide) (by omega)
  rw [leValue_numField v (Nat.le_of_lt hw)]
  omega

/-- Settles O33: the fill is all ones, which a sign extension also is and a value with top bit zero is not. -/
theorem wholeDataFieldAsOneInteger : Obligations.WholeDataFieldAsOneInteger := by
  intro i w v hw
  have hle : w ≤ 8 := width_le i hw
  refine ⟨leValue_numField _ hle, fun hs hr hneg => ?_, fun hlt hnn heq => ?_⟩
  · exact leValue_numField_eq_self hle (le_toNat_of_inRange_of_neg hw hs hr hneg) v.isLt
  · have htop : 2 ^ 63 ≤ v.toNat := heq ▸ le_leValue_numField v.toNat hlt
    have hint : 2 * v.toNat < 2 ^ 64 := BitVec.toInt_pos_iff.mp hnn
    omega

end Sys2Proof.Machine
end

section
/-!
PROOFS. `Encode` as a whole (40_operation.md R111 to R114): every way it can answer, and that it reads nothing but the
fields its operation uses.
-/

namespace Sys2Proof.Machine

/-! ### The outcomes of `Encode` -/

/-- A supported type accepts exactly the Requests that R114 calls valid. -/
theorem validateFor_eq_none_iff (i : Instr) (r : Request) :
    validateFor i r = none ↔ r.klen.toNat ≤ 15 ∧ (i.width.isSome = true → r.vkind = 0#1) ∧
      (i.width = none → r.vkind = 1#1 ∧ r.vlen.toNat ≤ 3999) := by
  rcases validateFor_cases i r with ⟨hk, hv⟩ | ⟨hk, hw, hvk, hv⟩ | ⟨hk, hw, hvk, hv⟩ | ⟨hk, hw, hvk, hv⟩ |
    ⟨hk, hw, hvk, hl, hv⟩ | ⟨hk, hw, hvk, hl, hv⟩
  · exact iff_of_false (by simp [hv]) fun ⟨hk', _⟩ => absurd hk' (Nat.not_le.mpr hk)
  · simp [hv, hw, hvk]
  · simp [hv, hk, hvk, Option.ne_none_iff_isSome.mpr hw]
  · simp [hv, hw, hvk]
  · simp [hv, hw, hl]
  · simp [hv, hk, hw, hvk, hl]

/-- Every way `Encode` can answer (40_operation.md R111, R114). -/
theorem encodeEntry_cases (c : Config) (r : Request) :
    (selectType c.tagCode r.type = none ∧ encodeEntry c r = .err (validateUnsupported r)) ∨
    (∃ i, selectType c.tagCode r.type = some i ∧
      ((∃ e, validateFor i r = some e ∧ encodeEntry c r = .err e) ∨
       (validateFor i r = none ∧ operate c i r = none ∧ encodeEntry c r = .noValue) ∨
       (validateFor i r = none ∧ ∃ run, operate c i r = some run ∧ encodeEntry c r = .ok run.hdr run.data))) := by
  cases hs : selectType c.tagCode r.type with
  | none => simp [encodeEntry, hs]
  | some i =>
    cases hv : validateFor i r with
    | some e => simp [encodeEntry, hs, hv]
    | none => cases ho : operate c i r <;> simp [encodeEntry, hs, hv, ho]

/-- An Encoded Entry is what the selected operation computes for a Request it accepts. -/
theorem encodeEntry_eq_ok {c : Config} {r : Request} {hdr data : List Byte} (h : encodeEntry c r = .ok hdr data) :
    ∃ i run, selectType c.tagCode r.type = some i ∧ validateFor i r = none ∧ operate c i r = some run ∧
      hdr = run.hdr ∧ data = run.data := by
  rcases encodeEntry_cases c r with ⟨_, h'⟩ | ⟨i, hs, ⟨e, _, h'⟩ | ⟨_, _, h'⟩ | ⟨hv, run, ho, h'⟩⟩ <;>
    rw [h'] at h <;> cases h
  exact ⟨i, run, hs, hv, ho, rfl, rfl⟩

/-- An accepted Request runs when the bytes it reads hold a value (log entry 6). -/
theorem operate_ne_none_of_bytesHeld {c : Config} {i : Instr} {r : Request} (held : bytesHeld c r = true)
    (hs : selectType c.tagCode r.type = some i) (hv : validateFor i r = none) : operate c i r ≠ none := by
  have hh : operandsHeld i r = true := by simpa [bytesHeld, hs, hv] using held
  rcases operate_cases c i r with ⟨hh', _⟩ | ⟨_, _, _, _, _, ho⟩
  · simp [hh] at hh'
  · simp [ho]

/-- `Encode` has a value for a Request whose bytes read have one. -/
theorem encodeEntry_ne_noValue_of_bytesHeld {c : Config} {r : Request} (held : bytesHeld c r = true) :
    encodeEntry c r ≠ .noValue := by
  rcases encodeEntry_cases c r with ⟨_, h⟩ | ⟨i, hs, ⟨e, _, h⟩ | ⟨hv, ho, _⟩ | ⟨_, run, _, h⟩⟩
  · simp [h]
  · simp [h]
  · exact absurd ho (operate_ne_none_of_bytesHeld held hs hv)
  · simp [h]

/-- `Encode` returns an entry exactly when the selected operation accepts the Request. -/
theorem encodeEntry_isOk_iff {c : Config} {r : Request} (held : bytesHeld c r = true) :
    (∃ hdr data, encodeEntry c r = .ok hdr data) ↔
      ∃ i, selectType c.tagCode r.type = some i ∧ validateFor i r = none := by
  constructor
  · rintro ⟨hdr, data, h⟩
    obtain ⟨i, _, hs, hv, _⟩ := encodeEntry_eq_ok h
    exact ⟨i, hs, hv⟩
  · rintro ⟨i, hs, hv⟩
    obtain ⟨run, ho⟩ := Option.ne_none_iff_exists'.mp (operate_ne_none_of_bytesHeld held hs hv)
    exact ⟨run.hdr, run.data, by simp [encodeEntry, hs, hv, ho]⟩

/-- Settles O15: without a missing byte only an entry and an error are left, and acceptance is R114's validity. -/
theorem encodeIsTotal : Obligations.EncodeIsTotal := by
  intro c r held
  constructor
  · cases h : encodeEntry c r with
    | ok hdr data => exact .inl ⟨hdr, data, rfl⟩
    | err e => exact .inr ⟨e, rfl⟩
    | noValue => exact absurd h (encodeEntry_ne_noValue_of_bytesHeld held)
  · rw [encodeEntry_isOk_iff held]
    simp only [validateFor_eq_none_iff]
    constructor
    · rintro ⟨i, hs, hk, hvalue⟩
      exact ⟨hk, i, hs, hvalue⟩
    · rintro ⟨hk, i, hs, hvalue⟩
      exact ⟨i, hs, hk, hvalue⟩

/-! ### What `Encode` reads -/

/-- The key's check reads the key length alone. -/
theorem checkKey_congr {r r' : Request} (hklen : r.klen = r'.klen) : checkKey r = checkKey r' := by
  rw [checkKey, checkKey, hklen]

/-- The numeric path reads the low `8 w` bits of its operand (42_numeric_encoder.md R140). -/
theorem serializeNumeric_congr {w v v' : Nat} (h : v % 2 ^ (8 * w) = v' % 2 ^ (8 * w)) :
    serializeNumeric w v = serializeNumeric w v' := by
  rw [serializeNumeric, serializeNumeric, numField, numField, h]

/-- The text's bytes are read at the offsets below its length alone. -/
theorem textBytes_congr {r r' : Request} (hvlen : r.vlen = r'.vlen)
    (hvbuf : ∀ a, a < r.vlen.toNat → readByte r.vbuf a = readByte r'.vbuf a) : textBytes r = textBytes r' := by
  rw [textBytes, textBytes, ← hvlen]
  exact readBytes_congr fun j hj => by simpa using hvbuf j hj

section
variable {i : Instr} {r r' : Request} (h : agreeOnRead i r r')
include h

theorem validateFor_eq_of_agreeOnRead : validateFor i r = validateFor i r' := by
  obtain ⟨_, _, hklen, hvkind, _, hvalue⟩ := h
  have hcheck : checkValue i r = checkValue i r' := by
    cases hw : i.width with
    | some w => simp only [checkValue, hw, hvkind]
    | none =>
      rw [hw] at hvalue
      simp only [checkValue, hw, hvkind, hvalue.1]
  rw [validateFor, validateFor, checkKey_congr hklen, hcheck]

theorem keyBytes_eq_of_agreeOnRead : keyBytes r = keyBytes r' := by
  obtain ⟨_, _, hklen, _, hkey, _⟩ := h
  rw [keyBytes, keyBytes, ← hklen]
  exact readBytes_congr fun j hj => by simpa using hkey j hj

theorem serializeValue_eq_of_agreeOnRead (c : Config) : serializeValue c i r = serializeValue c i r' := by
  obtain ⟨_, _, _, _, _, hvalue⟩ := h
  cases hw : i.width with
  | some w =>
    rw [hw] at hvalue
    have hnumeric : serializeNumeric w (numericOperand r) = serializeNumeric w (numericOperand r') :=
      serializeNumeric_congr hvalue
    simp only [serializeValue, hw, hnumeric]
  | none =>
    rw [hw] at hvalue
    simp only [serializeValue, hw, textBytes_congr hvalue.1 hvalue.2]

theorem operate_eq_of_agreeOnRead (c : Config) : operate c i r = operate c i r' := by
  have ⟨hns, htype, _⟩ := h
  have hassemble : assemble c r = assemble c r' := by
    funext kf v
    rw [assemble, assemble, hns, htype]
  rw [operate, operate, keyBytes_eq_of_agreeOnRead h, serializeValue_eq_of_agreeOnRead h c, hassemble]

end

/-- Settles O21: each part of `Encode` answers the same on Requests that agree on what it reads. -/
theorem encodeReadsOnlyItsFields : Obligations.EncodeReadsOnlyItsFields := by
  intro c r r'
  refine ⟨fun i hs h => ?_, fun hs htype hklen => ?_⟩
  · have htype : r.type = r'.type := h.2.1
    rw [encodeEntry, encodeEntry, ← htype, hs]
    simp only [validateFor_eq_of_agreeOnRead h, operate_eq_of_agreeOnRead h c]
  · rw [encodeEntry, encodeEntry, ← htype, hs]
    simp only [validateUnsupported, checkKey_congr hklen]

end Sys2Proof.Machine
end

section
/-!
PROOFS. The seven laws of every Encoded Entry (40_operation.md R121), read off the header block and the data buffer.
-/

namespace Sys2Proof.Machine

/-! ### Ranges of a sequence -/

theorem slice_append_left (xs ys : List Byte) {a b : Nat} (hb : b ≤ xs.length) :
    slice (xs ++ ys) a b = slice xs a b := by
  rw [slice, slice, List.take_append_of_le_length hb]

theorem slice_append_right {xs : List Byte} {n : Nat} (hn : xs.length = n) (ys : List Byte) (a b : Nat) :
    slice (xs ++ ys) (n + a) (n + b) = slice ys a b := by
  subst hn
  rw [slice, slice, List.take_length_add_append, List.drop_length_add_append]

theorem slice_append_head {xs : List Byte} {n : Nat} (hn : xs.length = n) (ys : List Byte) :
    slice (xs ++ ys) 0 n = xs := by
  rw [slice, List.take_left' hn, List.drop_zero]

theorem slice_append_tail {xs ys : List Byte} {m n : Nat} (hm : xs.length = m) (hn : m + ys.length = n) :
    slice (xs ++ ys) m n = ys := by
  rw [slice, List.take_of_length_le (by simp [hm, hn]), List.drop_left' hm]

/-- The scope of a header block, as R121 writes it (46_crc_scope.md R210). -/
theorem slice_append_slice_eq_crcScope {hdr : List Byte} (hlen : hdr.length = 32) :
    slice hdr 0 4 ++ slice hdr 8 32 = crcScope hdr := by
  rw [slice, slice, List.take_of_length_le (Nat.le_of_eq hlen), List.drop_zero, crcScope]

/-! ### One inverted bit -/

theorem flipBit_append_left {xs : List Byte} (ys : List Byte) {i : Nat} (b : Nat) (hi : i < xs.length) :
    flipBit (xs ++ ys) i b = flipBit xs i b ++ ys := by
  rw [← List.take_append_drop xs.length (flipBit (xs ++ ys) i b), flipBit, List.take_modify,
    List.drop_modify_of_lt _ _ _ _ hi, List.take_left, List.drop_left, flipBit]

theorem flipBit_append_right (xs ys : List Byte) {i : Nat} (b : Nat) (hi : xs.length ≤ i) :
    flipBit (xs ++ ys) i b = xs ++ flipBit ys (i - xs.length) b := by
  rw [← List.take_append_drop xs.length (flipBit (xs ++ ys) i b), flipBit, List.take_modify,
    List.drop_modify_of_ge _ _ _ _ hi, List.take_left, List.drop_left, List.modify_eq_self hi, flipBit]

/-- A bit inverted outside the checksum field is one bit inverted in the scope. -/
theorem crcScope_flipBit {hdr : List Byte} (hlen : hdr.length = 32) {i : Nat} (b : Nat) (hi : i < 4 ∨ 8 ≤ i ∧ i < 32) :
    ∃ j, j < (crcScope hdr).length ∧ crcScope (flipBit hdr i b) = flipBit (crcScope hdr) j b := by
  have hfront : (hdr.take 4).length = 4 := by simp [hlen]
  have hscope : (crcScope hdr).length = 28 := by simp [crcScope, hlen]
  rcases hi with hi | ⟨hlo, hhi⟩
  · refine ⟨i, by omega, ?_⟩
    rw [crcScope, crcScope, flipBit_append_left _ _ (by omega), flipBit, List.take_modify,
      List.drop_modify_of_lt _ _ _ _ (by omega), flipBit]
  · refine ⟨i - 4, by omega, ?_⟩
    rw [crcScope, crcScope, flipBit_append_right _ _ _ (by omega), flipBit, List.take_modify,
      List.drop_modify_of_ge _ _ _ _ hlo, List.modify_eq_self (by omega), flipBit, hfront, Nat.sub_sub]

/-- A checksum that detects single-bit changes detects every one outside the checksum field (00_scope.md R12). -/
theorem crc32_crcScope_flipBit_ne {crc32 : List Byte → Vector Byte 4} (hdetect : SingleBitDetect crc32)
    {hdr : List Byte} (hlen : hdr.length = 32) {i b : Nat} (hi : i < 4 ∨ 8 ≤ i ∧ i < 32) (hb : b < 8) :
    (crc32 (crcScope (flipBit hdr i b))).toList ≠ (crc32 (crcScope hdr)).toList := by
  obtain ⟨j, hj, hflip⟩ := crcScope_flipBit hlen b hi
  rw [hflip, Ne, Vector.toList_inj]
  exact hdetect _ j b hj hb

/-! ### The fields of the header block -/

section
variable {crc32 : List Byte → Vector Byte 4} {ns type span : Byte} {kf df : List Byte}

theorem getElem?_headerBlock_span : (headerBlock crc32 ns type span kf df)[2]? = some span := rfl

theorem getElem?_headerBlock_chunkIndex : (headerBlock crc32 ns type span kf df)[3]? = some 0xFF#8 := rfl

theorem crcScope_headerBlock :
    crcScope (headerBlock crc32 ns type span kf df) = [ns, type, span, 0xFF#8] ++ kf ++ df := by
  simp [crcScope, headerBlock]

/-- The checksum field of a header block is the checksum of its scope (46_crc_scope.md R212, R213). -/
theorem slice_headerBlock_checksum :
    slice (headerBlock crc32 ns type span kf df) 4 8 =
      (crc32 (crcScope (headerBlock crc32 ns type span kf df))).toList := by
  rw [crcScope_headerBlock, headerBlock, List.append_assoc, List.append_assoc, slice_append_right (n := 4) rfl _ 0 4,
    slice_append_head (Vector.length_toList ..)]

/-- Bytes 8 to 23 of a header block are the key field (30_encoding.md R88). -/
theorem slice_headerBlock_keyField {a b : Nat} (hb : b ≤ kf.length) :
    slice (headerBlock crc32 ns type span kf df) (8 + a) (8 + b) = slice kf a b := by
  rw [headerBlock, List.append_assoc, slice_append_right (n := 8) (by simp), slice_append_left _ _ hb]

theorem getElem?_headerBlock_keyField {j : Nat} (hj : j < kf.length) :
    (headerBlock crc32 ns type span kf df)[8 + j]? = kf[j]? := by
  rw [headerBlock, List.append_assoc, List.getElem?_append_right (by simp),
    List.getElem?_append_left (by simpa using hj)]
  simp

/-- Bytes 24 to 31 are the data field (R88). -/
theorem slice_headerBlock_dataField (hkf : kf.length = 16) (a b : Nat) :
    slice (headerBlock crc32 ns type span kf df) (24 + a) (24 + b) = slice df a b := by
  rw [headerBlock, slice_append_right (n := 24) (by simp [hkf])]

end

/-! ### The key field -/

/-- The key field is the key and zeros (41_key_serializer.md R131). -/
theorem keyField_eq_paddedKey {key : List Byte} (hk : key.length ≤ 15) : keyField key = paddedKey key := by
  have hpad : [padKey] ++ rep padKey (15 - key.length) = rep 0x00#8 (16 - key.length) := by
    rw [show 16 - key.length = 15 - key.length + 1 by omega]
    rfl
  rw [keyField, List.append_assoc, hpad, paddedKey]

theorem slice_paddedKey_padding {key : List Byte} (hk : key.length ≤ 15) :
    slice (paddedKey key) key.length 16 = rep 0x00#8 (16 - key.length) := by
  have hlen : key.length + (rep 0x00#8 (16 - key.length)).length = 16 := by
    rw [length_rep]
    omega
  rw [paddedKey, slice_append_tail rfl hlen]

/-! ### The numeric data field -/

theorem slice_numField_value (w v : Nat) : slice (numField w v) 0 w = leBytes w (v % 2 ^ (8 * w)) := by
  rw [numField, slice_append_head (length_leBytes ..)]

theorem slice_numField_padding {w : Nat} (v : Nat) (hw : w ≤ 8) : slice (numField w v) w 8 = rep 0xFF#8 (8 - w) := by
  have hlen : w + (rep padData (8 - w)).length = 8 := by rw [length_rep, Nat.add_sub_cancel' hw]
  rw [numField, slice_append_tail (length_leBytes ..) hlen]

/-! ### The string entry -/

section
variable (crc32 : List Byte → Vector Byte 4) (text : List Byte)

@[simp] theorem serializeString_df : (serializeString crc32 text).df =
    stringField (text.length + 1) (crc32 (payloadOf text)).toList := by
  simp [serializeString]

@[simp] theorem serializeString_span : (serializeString crc32 text).span = 1 + (text.length + 1 + 31) / 32 := by
  simp [serializeString, stringSpan_eq]

@[simp] theorem serializeString_data : (serializeString crc32 text).data = dataBuffer (payloadOf text) := rfl

end

theorem slice_stringField_length (l : Nat) (pcrc : List Byte) : slice (stringField l pcrc) 0 2 = leBytes 2 l := rfl

theorem slice_stringField_unused (l : Nat) (pcrc : List Byte) : slice (stringField l pcrc) 2 4 = [0xFF#8, 0xFF#8] := rfl

theorem slice_stringField_checksum (l : Nat) {pcrc : List Byte} (h : pcrc.length = 4) :
    slice (stringField l pcrc) 4 8 = pcrc := by
  rw [stringField, slice_append_tail (m := 4) rfl (by rw [h])]

/-- The data buffer begins with the payload (43_string_chunker.md R163). -/
theorem slice_dataBuffer_payload {payload : List Byte} {n : Nat} (hn : payload.length = n) :
    slice (dataBuffer payload) 0 n = payload := by
  rw [dataBuffer, slice_append_head hn]

/-- Past the payload the data buffer is padding (R163). -/
theorem slice_dataBuffer_padding {payload : List Byte} {n : Nat} (hn : payload.length = n) :
    slice (dataBuffer payload) n (dataBuffer payload).length = rep 0xFF#8 ((dataBuffer payload).length - n) := by
  obtain ⟨p, hp⟩ : ∃ p, dataBuffer payload = payload ++ rep 0xFF#8 p := ⟨_, rfl⟩
  rw [hp, slice_append_tail hn (by simp [hn])]
  simp [hn]

theorem getElem?_dataBuffer_text (text : List Byte) {j : Nat} (hj : j < text.length) :
    (dataBuffer (payloadOf text))[j]? = text[j]? := by
  rw [dataBuffer, payloadOf, List.append_assoc, List.getElem?_append_left hj]

theorem getElem?_dataBuffer_terminator (text : List Byte) :
    (dataBuffer (payloadOf text))[text.length]? = some 0x00#8 := by
  simp [dataBuffer, payloadOf]

/-! ### What an accepted operation computes -/

/-- An Encoded Entry is what the operation assembles from the key field and the serialized value. -/
theorem operate_eq_some {c : Config} {i : Instr} {r : Request} {run : Run} (h : operate c i r = some run) :
    ∃ key v, keyBytes r = some key ∧ serializeValue c i r = some v ∧ run = assemble c r (keyField key) v := by
  rcases operate_cases c i r with ⟨_, h'⟩ | ⟨_, key, v, hk, hs, h'⟩ <;> rw [h'] at h <;> cases h
  exact ⟨key, v, hk, hs, rfl⟩

/-- A numeric type's value is serialized by the numeric path. -/
theorem serializeValue_numeric {c : Config} {i : Instr} {r : Request} {v : SerializedValue} {w : Nat}
    (h : serializeValue c i r = some v) (hw : i.width = some w) : v = serializeNumeric w (numericOperand r) := by
  rcases serializeValue_cases h with ⟨w', hw', hv⟩ | ⟨hw', _⟩
  · rwa [Option.some.inj (hw.symm.trans hw')]
  · simp [hw] at hw'

/-- A string's value is serialized by the string path. -/
theorem serializeValue_string {c : Config} {i : Instr} {r : Request} {v : SerializedValue}
    (h : serializeValue c i r = some v) (hw : i.width = none) :
    ∃ text, textBytes r = some text ∧ v = serializeString c.crc32 text := by
  rcases serializeValue_cases h with ⟨_, hw', _⟩ | ⟨_, htext⟩
  · simp [hw] at hw'
  · exact htext

/-- The bytes a read of several bytes answers from offset 0. -/
theorem getElem?_of_readBytes {m : Buffer} {n : Nat} {bytes : List Byte} (h : readBytes m n 0 = some bytes) {j : Nat}
    (hj : j < n) : bytes[j]? = readByte m j := by
  simpa using ((readBytes_eq_some h).2 j hj).symm

/-! ### The laws -/

section
variable {c : Config} {r : Request} {v : SerializedValue} {key hdr : List Byte}
  (hhdr : hdr = (assemble c r (keyField key) v).hdr)
include hhdr

/-- Law 3: the numeric data field (40_operation.md R121). -/
theorem numericEntry_law {i : Instr} {w : Nat} (hkey : (keyField key).length = 16)
    (hv : serializeValue c i r = some v) (hw : i.width = some w) :
    slice hdr 24 (24 + w) = leBytes w (r.vnum.toNat % 2 ^ (8 * w)) ∧ slice hdr (24 + w) 32 = rep 0xFF#8 (8 - w) ∧
      hdr[2]? = some 0x01#8 := by
  obtain rfl := serializeValue_numeric hv hw
  rw [hhdr, assemble_hdr]
  refine ⟨?_, ?_, rfl⟩
  · exact (slice_headerBlock_dataField hkey 0 w).trans (slice_numField_value ..)
  · exact (slice_headerBlock_dataField hkey w 8).trans (slice_numField_padding _ (width_le i hw))

/-- Law 4: the string's span, data buffer and data field (R121). -/
theorem stringEntry_law {i : Instr} (hkey : (keyField key).length = 16) (hv : serializeValue c i r = some v)
    (hw : i.width = none) :
    hdr[2]? = some (BitVec.ofNat 8 (1 + (r.vlen.toNat + 1 + 31) / 32)) ∧
      (∀ j, j < r.vlen.toNat → v.data[j]? = readByte r.vbuf j) ∧ v.data[r.vlen.toNat]? = some 0x00#8 ∧
      slice v.data (r.vlen.toNat + 1) v.data.length = rep 0xFF#8 (v.data.length - (r.vlen.toNat + 1)) ∧
      slice hdr 24 26 = leBytes 2 (r.vlen.toNat + 1) ∧ slice hdr 26 28 = [0xFF#8, 0xFF#8] ∧
      slice hdr 28 32 = (c.crc32 (slice v.data 0 (r.vlen.toNat + 1))).toList := by
  obtain ⟨text, htext, rfl⟩ := serializeValue_string hv hw
  have hpayload : (payloadOf text).length = text.length + 1 := length_payloadOf text
  rw [hhdr, assemble_hdr, serializeString_data, serializeString_df, serializeString_span, ← length_textBytes htext,
    slice_dataBuffer_payload hpayload]
  refine ⟨rfl, fun j hj => ?_, getElem?_dataBuffer_terminator text, slice_dataBuffer_padding hpayload, ?_, ?_, ?_⟩
  · rw [getElem?_dataBuffer_text text hj]
    exact getElem?_of_readBytes htext (length_textBytes htext ▸ hj)
  · exact (slice_headerBlock_dataField hkey 0 2).trans (slice_stringField_length ..)
  · exact (slice_headerBlock_dataField hkey 2 4).trans (slice_stringField_unused ..)
  · exact (slice_headerBlock_dataField hkey 4 8).trans
      (slice_stringField_checksum _ (Vector.length_toList ..))

/-- Law 5: the checksum field over the scope (R121). -/
theorem headerChecksum_law : slice hdr 4 8 = (c.crc32 (crcScope hdr)).toList := by
  rw [hhdr, assemble_hdr, slice_headerBlock_checksum]

/-- Law 7: the key field (R121). -/
theorem keyField_law (hread : keyBytes r = some key) (hk : key.length ≤ 15) :
    (∀ j, j < r.klen.toNat → hdr[8 + j]? = readByte r.key j) ∧
      slice hdr (8 + r.klen.toNat) 24 = rep 0x00#8 (16 - r.klen.toNat) := by
  rw [hhdr, assemble_hdr, ← length_keyBytes hread]
  constructor
  · intro j hj
    rw [getElem?_headerBlock_keyField (by rw [length_keyField hk]; omega), getElem?_keyField _ _ (by omega),
      if_pos hj]
    exact getElem?_of_readBytes hread (length_keyBytes hread ▸ hj)
  · rw [slice_headerBlock_keyField (b := 16) (Nat.le_of_eq (length_keyField hk).symm), keyField_eq_paddedKey hk,
      slice_paddedKey_padding hk]

end

/-- Settles O16: an entry is the header block and the data buffer that the operation assembles, and each law is a law
of their fields. -/
theorem encodedEntryLaws : Obligations.EncodedEntryLaws := by
  intro c r hdr data h
  obtain ⟨i, run, hs, hvalid, hrun, rfl, rfl⟩ := encodeEntry_eq_ok h
  have hlen : run.hdr.length = 32 := length_hdr_of_operate hvalid hrun
  obtain ⟨_, _, hdata⟩ := length_data_of_operate hvalid hrun
  obtain ⟨key, v, hread, hv, rfl⟩ := operate_eq_some hrun
  have hk : key.length ≤ 15 := length_keyBytes hread ▸ klen_le_of_valid hvalid
  have hkf : (keyField key).length = 16 := length_keyField hk
  refine ⟨⟨hlen, _, ?_, hdata⟩, ?_, fun j w hj hw => ?_, fun j hj hw => ?_, ?_, fun hdetect j b hj hb => ?_,
    keyField_law rfl hread hk⟩
  · rw [assemble_hdr, getElem?_headerBlock_span, assemble_span]
  · rw [assemble_hdr, getElem?_headerBlock_chunkIndex]
  · obtain rfl : i = j := Option.some.inj (hs.symm.trans hj)
    exact numericEntry_law rfl hkf hv hw
  · obtain rfl : i = j := Option.some.inj (hs.symm.trans hj)
    exact stringEntry_law rfl hkf hv hw
  · rw [slice_append_slice_eq_crcScope hlen, headerChecksum_law rfl]
  · rw [headerChecksum_law rfl]
    exact crc32_crcScope_flipBit_ne hdetect hlen hj hb

end Sys2Proof.Machine
end

section
/-!
PROOFS. The string chunker (43_string_chunker.md): the entry cut into blocks (R164), and the bytes of a string's data
field (R166).
-/

namespace Sys2Proof.Machine

/-! ### Blocks of the contiguous entry -/

/-- Block 0 of an entry is its header (44_block_counter.md R185). -/
theorem entryBlock_zero {hdr : List Byte} (hlen : hdr.length = 32) (data : List Byte) :
    entryBlock hdr data 0 = hdr := by
  rw [entryBlock, contiguousEntry, blockOffset, Nat.zero_mul, List.drop_zero, List.take_left' hlen]

/-- Block `k + 1` of an entry is the `k`-th block of its data buffer: the header takes up block 0. -/
theorem entryBlock_succ {hdr : List Byte} (hlen : hdr.length = 32) (data : List Byte) (k : Nat) :
    entryBlock hdr data (k + 1) = slice data (k * 32) ((k + 1) * 32) := by
  have hoff : blockOffset (k + 1) = hdr.length + k * 32 := by
    rw [blockOffset, Nat.succ_mul, Nat.add_comm, hlen]
  have hsize : (k + 1) * 32 - k * 32 = 32 := by omega
  rw [entryBlock, contiguousEntry, hoff, List.drop_length_add_append, slice, List.drop_take, hsize]

/-! ### The blocks of the data buffer -/

/-- A range of the data buffer within the payload is that range of the payload (R163). -/
theorem slice_dataBuffer_of_le (payload : List Byte) (a : Nat) {b : Nat} (hb : b ≤ payload.length) :
    slice (dataBuffer payload) a b = slice payload a b :=
  slice_append_left _ _ hb

/-- From an offset within the payload, the data buffer holds the rest of the payload and then the padding (R163). -/
theorem slice_dataBuffer_to_end (payload : List Byte) {a : Nat} (ha : a ≤ payload.length) :
    slice (dataBuffer payload) a (dataLength (stringSpan payload.length)) =
      slice payload a payload.length ++ rep 0xFF#8 (dataLength (stringSpan payload.length) - payload.length) := by
  rw [slice, List.take_of_length_le (Nat.le_of_eq (length_dataBuffer payload)), dataBuffer,
    List.drop_append_of_le_length ha, slice, List.take_length]

/-- The blocks before the last one lie within the payload. -/
theorem mul_le_of_le_stringSpan {k l : Nat} (hk : k ≤ stringSpan l - 2) : k * 32 ≤ l := by
  rw [stringSpan_eq] at hk
  omega

/-- The last block holds at least one payload byte, and the payload ends within it (R164). -/
theorem lastBlock_payload_bounds {l : Nat} (hl : 1 ≤ l) :
    1 ≤ l - (stringSpan l - 2) * 32 ∧ l - (stringSpan l - 2) * 32 ≤ 32 := by
  rw [stringSpan_eq]
  omega

/-- The payload's last byte is the terminator (R161). -/
theorem getElem?_payloadOf_last (text : List Byte) :
    (payloadOf text)[(payloadOf text).length - 1]? = some 0x00#8 := by
  rw [length_payloadOf, Nat.add_sub_cancel, payloadOf, List.getElem?_concat_length]

/-- Settles O36: the header takes up block 0, so the data blocks are the blocks of the data buffer, which is the payload
and then padding. -/
theorem chunkingIntoBlocks : Obligations.ChunkingIntoBlocks := by
  intro text hdr _ hhdr payload l span data
  obtain ⟨hmin, hmax⟩ := lastBlock_payload_bounds (l := l) (by simp [l, payload])
  refine ⟨fun k hk _ => ?_, fun k _ hk => ?_, ?_, hmin, hmax, getElem?_payloadOf_last text, entryBlock_zero hhdr data⟩
  · obtain ⟨j, rfl⟩ := Nat.exists_eq_add_of_le' hk
    exact entryBlock_succ hhdr data j
  · exact slice_dataBuffer_of_le payload _ (mul_le_of_le_stringSpan hk)
  · exact slice_dataBuffer_to_end payload (mul_le_of_le_stringSpan (Nat.le_refl _))

/-! ### The data field -/

/-- The length's two bytes: its low byte, then the rest (20_memory.md R52). -/
theorem leBytes_two (l : Nat) : leBytes 2 l = [BitVec.ofNat 8 (l % 256), BitVec.ofNat 8 (l / 256)] := by
  have hlow : BitVec.ofNat 8 (l % 256) = BitVec.ofNat 8 l := BitVec.eq_of_toNat_eq (by simp)
  rw [hlow]
  rfl

/-- The data field of a string byte by byte up to the checksum (R166). -/
theorem stringField_eq (l : Nat) (pcrc : List Byte) :
    stringField l pcrc = [BitVec.ofNat 8 (l % 256), BitVec.ofNat 8 (l / 256), 0xFF#8, 0xFF#8] ++ pcrc := by
  rw [stringField, leBytes_two]
  rfl

/-- Settles O37: the field is the length's two bytes, the two unused bytes and the checksum, in this order. -/
theorem stringDataFieldBytes : Obligations.StringDataFieldBytes := by
  intro l pcrc _ hl hpcrc
  have hlength : (stringField l pcrc).length = 8 := by rw [length_stringField, hpcrc]
  have hchecksum : slice (stringField l pcrc) 4 8 = pcrc := slice_stringField_checksum l hpcrc
  rw [stringField_eq] at hlength hchecksum ⊢
  exact ⟨rfl, rfl, rfl, rfl, hchecksum, hlength, by omega⟩

end Sys2Proof.Machine
end

section
/-!
PROOFS. The block counter (44_block_counter.md): the ranges of span, data length, padding and entry length (R183).
-/

namespace Sys2Proof.Machine

/-- The two general laws of R183: the data length is the next multiple of the block size from the payload length on. -/
theorem dataLength_stringSpan_laws (l : Nat) :
    l ≤ dataLength (stringSpan l) ∧ dataLength (stringSpan l) < l + 32 ∧ dataLength (stringSpan l) % 32 = 0 := by
  rw [dataLength_stringSpan]
  omega

/-- An entry is its header block and its data buffer. -/
theorem stringSpan_mul_eq (l : Nat) : stringSpan l * 32 = 32 + dataLength (stringSpan l) := by
  rw [dataLength_stringSpan, stringSpan_eq, Nat.add_mul, Nat.one_mul]

/-- Spans are the steps of the payload length: `q` data blocks for the lengths above `q - 1` and up to `q` blocks. -/
theorem stringSpan_eq_succ_iff (l q : Nat) : stringSpan l = q + 1 ↔ l ≤ q * 32 ∧ q * 32 < l + 32 := by
  rw [stringSpan_eq]
  omega

/-- A legal payload takes 1 to 125 data blocks (R183). -/
theorem dataLength_stringSpan_range {l : Nat} (hmin : 1 ≤ l) (hmax : l ≤ 4000) :
    32 ≤ dataLength (stringSpan l) ∧ dataLength (stringSpan l) ≤ 4000 := by
  obtain ⟨hle, hlt, hmod⟩ := dataLength_stringSpan_laws l
  omega

/-- There is no padding exactly when the payload fills its last block, and the most when it leaves one byte there. -/
theorem padding_ends_iff (l : Nat) :
    (dataLength (stringSpan l) - l = 0 ↔ l % 32 = 0) ∧ (dataLength (stringSpan l) - l = 31 ↔ l % 32 = 1) := by
  obtain ⟨hle, hlt, hmod⟩ := dataLength_stringSpan_laws l
  omega

/-- Settles O34: the span's ends are two of its steps, and its range, like the entry length's, is the data length's and
one block more. -/
theorem spanAndLengthRanges : Obligations.SpanAndLengthRanges := by
  intro l hmin hmax
  obtain ⟨hle, hlt, hmod⟩ := dataLength_stringSpan_laws l
  obtain ⟨hdataMin, hdataMax⟩ := dataLength_stringSpan_range hmin hmax
  obtain ⟨hnone, hmost⟩ := padding_ends_iff l
  have hentry : stringSpan l * 32 = 32 + dataLength (stringSpan l) := stringSpan_mul_eq l
  have hfirst : stringSpan l = 2 ↔ l ≤ 32 := by rw [stringSpan_eq_succ_iff l 1]; omega
  have hlast : stringSpan l = 126 ↔ 3969 ≤ l := by rw [stringSpan_eq_succ_iff l 125]; omega
  exact ⟨by omega, by omega, hdataMin, hdataMax, hfirst, hlast, hle, hlt, hmod, hnone, hmost, by omega, by omega⟩

end Sys2Proof.Machine
end

section
/-!
PROOFS. The header packer (45_header_packer.md): bytes 4 to 7 before the checksum is written (R197).
-/

namespace Sys2Proof.Machine

/-- Settles O38: the scope skips the four bytes and the checksum overwrites them, so neither result mentions them. -/
theorem unwrittenChecksumBytesDoNotMatter : Obligations.UnwrittenChecksumBytesDoNotMatter := by
  intro ns type span x y kf df hcrc hx hy _
  constructor
  · rw [crcScope_packHeader ns type span kf df hx, crcScope_packHeader ns type span kf df hy]
  · rw [storeHeaderCrc_packHeader ns type span hcrc kf df hx, storeHeaderCrc_packHeader ns type span hcrc kf df hy]

end Sys2Proof.Machine
end

section
/-!
PROOFS. The CRC-scope assembler (46_crc_scope.md): the bytes of the scope (R210).
-/

namespace Sys2Proof.Machine

theorem length_crcScope {hdr : List Byte} (hlen : hdr.length = 32) : (crcScope hdr).length = 28 := by
  rw [crcScope, List.length_append, List.length_take, List.length_drop, hlen]
  rfl

/-- Before the checksum field a byte of the scope is the header's at the same place, from there on four places further. -/
theorem getElem?_crcScope {hdr : List Byte} (hlen : hdr.length = 32) (i : Nat) :
    (crcScope hdr)[i]? = hdr[if i < 4 then i else i + 4]? := by
  have hfront : (hdr.take 4).length = 4 := List.length_take_of_le (by omega)
  rw [crcScope]
  split
  case isTrue hi => rw [List.getElem?_append_left (by omega), List.getElem?_take_of_lt hi]
  case isFalse hi =>
    have hplace : 8 + (i - 4) = i + 4 := by omega
    rw [List.getElem?_append_right (by omega), hfront, List.getElem?_drop, hplace]

/-- Settles O39: the scope is the header's two ranges around the checksum field, and each is read at its own places. -/
theorem scopeIsTheHeaderWithoutItsChecksum : Obligations.ScopeIsTheHeaderWithoutItsChecksum := by
  intro hdr hlen
  exact ⟨length_crcScope hlen, (slice_append_slice_eq_crcScope hlen).symm, fun i _ => getElem?_crcScope hlen i⟩

end Sys2Proof.Machine
end

section
/-!
PROOFS. The four validation errors and their conditions (60_exceptions.md R221 to R224).
-/

namespace Sys2Proof.Machine

/-- A type byte selects nothing exactly when it is the code of no supported type (R87, R224). -/
theorem selectType_eq_none_iff {tagCode : Instr → Byte} {b : Byte} :
    selectType tagCode b = none ↔ ∀ i, tagCode i ≠ b := by
  have hall : ∀ i : Instr, i ∈ Instr.all := fun i => by cases i <;> decide
  simp [selectType, List.find?_eq_none, hall]

/-- The string type is the only one without a width. -/
theorem width_eq_none_iff {i : Instr} : i.width = none ↔ i = .encStr := by
  cases i <;> decide

theorem width_isSome_iff {i : Instr} : i.width.isSome = true ↔ i ≠ .encStr := by
  rw [← Option.ne_none_iff_isSome, ne_eq, width_eq_none_iff]

/-- The error of an unsupported type byte: a long key, or else the type byte itself (R226). -/
theorem validateUnsupported_cases (r : Request) :
    (15 < r.klen.toNat ∧ validateUnsupported r = .keyTooLong) ∨ validateUnsupported r = .unsupportedType := by
  by_cases h : 15 < r.klen.toNat
  · simp [validateUnsupported, checkKey, h]
  · simp [validateUnsupported, checkKey, h]

section
variable {c : Config} {r : Request} {i : Instr} {e : ValidationError}

/-- An error of a supported type's checks has its condition. -/
theorem causeHolds_of_validateFor (hs : selectType c.tagCode r.type = some i) (hv : validateFor i r = some e) :
    causeHolds c r e := by
  rcases validateFor_cases i r with ⟨hk, h⟩ | ⟨_, hw, hkind, h⟩ | ⟨_, _, _, h⟩ | ⟨_, hw, hkind, h⟩ |
    ⟨_, hw, hkind, hl, h⟩ | ⟨_, _, _, _, h⟩ <;> rw [h] at hv <;> cases hv
  · exact hk
  · exact ⟨i, hs, .inl ⟨width_isSome_iff.mp hw, hkind⟩⟩
  · exact ⟨i, hs, .inr ⟨width_eq_none_iff.mp hw, hkind⟩⟩
  · exact ⟨width_eq_none_iff.mp hw ▸ hs, hkind, Nat.succ_lt_succ hl⟩

/-- The error of an unsupported type byte has its condition. -/
theorem causeHolds_validateUnsupported (hs : selectType c.tagCode r.type = none) :
    causeHolds c r (validateUnsupported r) := by
  rcases validateUnsupported_cases r with ⟨hk, h⟩ | h <;> rw [h]
  · exact hk
  · exact selectType_eq_none_iff.mp hs

/-- An error is reported only when its condition holds. -/
theorem causeHolds_of_encodeEntry_eq_err (h : encodeEntry c r = .err e) : causeHolds c r e := by
  rcases encodeEntry_cases c r with ⟨hs, h'⟩ | ⟨i, hs, ⟨e', hv, h'⟩ | ⟨_, _, h'⟩ | ⟨_, run, _, h'⟩⟩ <;>
    rw [h'] at h <;> cases h
  · exact causeHolds_validateUnsupported hs
  · exact causeHolds_of_validateFor hs hv

/-- A Request that its type's checks accept meets none of the four conditions. -/
theorem not_causeHolds_of_valid (hs : selectType c.tagCode r.type = some i) (hv : validateFor i r = none) :
    ¬ causeHolds c r e := by
  obtain ⟨hk, hnumber, htext⟩ := (validateFor_eq_none_iff i r).mp hv
  intro hc
  cases e with
  | keyTooLong => exact Nat.not_lt.mpr hk hc
  | typeMismatch =>
    obtain ⟨j, hj, hkind⟩ := hc
    obtain rfl : i = j := Option.some.inj (hs.symm.trans hj)
    rcases hkind with ⟨hi, hkind⟩ | ⟨hi, hkind⟩
    · simp [hnumber (width_isSome_iff.mpr hi)] at hkind
    · simp [(htext (width_eq_none_iff.mpr hi)).1] at hkind
  | valueTooLarge =>
    obtain ⟨hstr, _, hl⟩ := hc
    have hi : i = .encStr := Option.some.inj (hs.symm.trans hstr)
    have hshort : r.vlen.toNat ≤ 3999 := (htext (width_eq_none_iff.mpr hi)).2
    omega
  | unsupportedType => simp [selectType_eq_none_iff.mpr hc] at hs

/-- Some condition, some error, whichever the order of the checks. -/
theorem exists_encodeEntry_eq_err_of_causeHolds (hc : causeHolds c r e) : ∃ e', encodeEntry c r = .err e' := by
  rcases encodeEntry_cases c r with ⟨_, h⟩ | ⟨i, hs, ⟨e', _, h⟩ | ⟨hv, _⟩ | ⟨hv, _⟩⟩
  · exact ⟨_, h⟩
  · exact ⟨e', h⟩
  · exact absurd hc (not_causeHolds_of_valid hs hv)
  · exact absurd hc (not_causeHolds_of_valid hs hv)

end

/-- Settles O19: a condition brings some error, that error has its own condition, and there is only the one. -/
theorem eachErrorHasItsCondition : Obligations.EachErrorHasItsCondition := by
  refine fun c r => ⟨fun e => causeHolds_of_encodeEntry_eq_err, fun e hc honly => ?_⟩
  obtain ⟨e', h⟩ := exists_encodeEntry_eq_err_of_causeHolds hc
  rw [h, honly e' (causeHolds_of_encodeEntry_eq_err h)]

end Sys2Proof.Machine
end

section
/-!
PROOFS. The type-tag map (30_encoding.md R85, R87): a code and the operation it selects, one way and the other.
-/

namespace Sys2Proof.Machine

section
variable {tagCode : Instr → Byte} {i : Instr} {b : Byte}

/-- A byte that selects an operation is its code (R85). -/
theorem tagCode_of_selectType (h : selectType tagCode b = some i) : tagCode i = b := by
  simpa using List.find?_some h

theorem mem_instr_all (i : Instr) : i ∈ Instr.all := by
  cases i <;> decide

/-- No other operation has the code of a well-formed one (00_scope.md R10). -/
theorem eq_of_tagCode_eq (hwf : i.wellFormed tagCode = true) {j : Instr} (h : tagCode j = tagCode i) : j = i := by
  have hj := List.all_eq_true.mp hwf j (mem_instr_all j)
  simpa [h] using hj

/-- The code of a well-formed operation selects it. -/
theorem selectType_tagCode (hwf : i.wellFormed tagCode = true) : selectType tagCode (tagCode i) = some i := by
  have hsome : selectType tagCode (tagCode i) ≠ none := fun h => selectType_eq_none_iff.mp h i rfl
  obtain ⟨j, hj⟩ := Option.ne_none_iff_exists'.mp hsome
  rw [hj, eq_of_tagCode_eq hwf (tagCode_of_selectType hj)]

theorem decodeWith_encodeWith (hwf : i.wellFormed tagCode = true) (rest : List Byte) :
    decodeWith tagCode (encodeWith tagCode i ++ rest) = .ok i rest := by
  simp [encodeWith, decodeWith, selectType_tagCode hwf]

theorem decodeWith_cons_eq_ok_iff {rest rest' : List Byte} :
    decodeWith tagCode (b :: rest) = .ok i rest' ↔ selectType tagCode b = some i ∧ rest = rest' := by
  cases hs : selectType tagCode b <;> simp [decodeWith, hs]

/-- What decodes to an operation is its encoding, with the rest left over. -/
theorem encodeWith_of_decodeWith {rest rest' : List Byte} (h : decodeWith tagCode (b :: rest) = .ok i rest') :
    encodeWith tagCode i = [b] ∧ rest' = rest := by
  obtain ⟨hs, hrest⟩ := decodeWith_cons_eq_ok_iff.mp h
  exact ⟨by rw [encodeWith, tagCode_of_selectType hs], hrest.symm⟩

end

/-- The nine default codes are pairwise distinct (R10; log entry 1). -/
theorem wellFormed_defaultTagCode (i : Instr) : i.wellFormed defaultTagCode = true := by
  cases i <;> decide

theorem selectType_defaultTagCode_iff {b : Byte} {i : Instr} :
    selectType defaultTagCode b = some i ↔ defaultTagCode i = b :=
  ⟨tagCode_of_selectType, fun h => h ▸ selectType_tagCode (wellFormed_defaultTagCode i)⟩

/-- Settles O13: distinct codes make the selection and the code inverse to each other, and the default codes are
distinct. -/
theorem typeTagMapRoundTrips : Obligations.TypeTagMapRoundTrips :=
  ⟨fun _ _ => selectType_tagCode, fun _ _ _ => tagCode_of_selectType,
    fun _ _ rest hwf => decodeWith_encodeWith hwf rest, fun _ _ _ _ _ => encodeWith_of_decodeWith,
    wellFormed_defaultTagCode, fun i => decodeWith_encodeWith (wellFormed_defaultTagCode i),
    fun _ _ _ h => (encodeWith_of_decodeWith h).1⟩

/-- Settles O12: each of the nine bytes is the encoding of its operation. -/
theorem nineTypeBytesSelectTheNineOperations : Obligations.NineTypeBytesSelectTheNineOperations := by
  have h : ∀ i, decode (encode i ++ []) = .ok i [] := fun i => decodeWith_encodeWith (wellFormed_defaultTagCode i) []
  exact ⟨h .encU8, h .encI8, h .encU16, h .encI16, h .encU32, h .encI32, h .encU64, h .encI64, h .encStr⟩

end Sys2Proof.Machine
end

section
/-!
PROOFS. Whose turn it is, and what the turn does at which parameters (40_operation.md R110, R118; 10_state.md R39).
-/

namespace Sys2Proof.Machine

section
variable {s : State} {rest : List Turn}

theorem step_of_pending_nil (h : s.pending = []) : step s = blockTurn s := by
  simp [step, takeTurn, takeTurnAt, h, blockTurn]

theorem step_of_pending_block (h : s.pending = .block :: rest) : step s = blockTurn { s with pending := rest } := by
  simp [step, takeTurn, takeTurnAt, h, blockTurn]

theorem step_of_pending_host {m : HostMove} (h : s.pending = .host m :: rest) :
    step s = hostMove m { s with pending := rest } := by
  simp [step, takeTurn, takeTurnAt, h]

theorem stepAt_of_pending_host {c : Config} (hb : c.blockSize = 32) {m : HostMove} (h : s.pending = .host m :: rest) :
    stepAt c s = hostMove m { s with pending := rest } := by
  simp [stepAt_eq_takeTurnAt hb, takeTurnAt, h]

/-- The block idles outside BUSY (R110). -/
theorem blockTurn_of_not_busy (h : phaseOf s.status ≠ .busy) : blockTurn s = .next s :=
  blockTurnAt_not_busy h

theorem hostMove_start_of_busy (h : phaseOf s.status = .busy) : hostMove .start s = .next s := by
  simp [hostMove, h]

end

/-- In BUSY the block's turn is the operation that the taken Request's type byte decodes to (30_encoding.md R85). -/
theorem blockTurn_eq_exec {s : State} {r : Request} {i : Instr} (hbusy : phaseOf s.status = .busy)
    (htaken : s.taken = some r) (hdecode : decode [r.type] = .ok i []) : blockTurn s = exec i s := by
  have hs : decodeWith Config.hardware.tagCode [r.type] = .ok i [] := hdecode
  simp [blockTurn, blockTurnAt_busy hbusy, runOperationAt, htaken, hs]

/-- Settles O8: a block's turn decodes the type byte, and taking it from the list leaves the Request and the phase. -/
theorem stepRunsTheDecodedOperation : Obligations.StepRunsTheDecodedOperation := by
  intro s r i hbusy htaken hdecode
  refine ⟨fun hp => ?_, fun rest hp => ?_⟩
  · rw [step_of_pending_nil hp, blockTurn_eq_exec hbusy htaken hdecode]
  · rw [step_of_pending_block hp]
    exact blockTurn_eq_exec (s := { s with pending := rest }) hbusy htaken hdecode

/-- Settles O9: the turn at the head of the list, and the idle block. -/
theorem otherTurnsMakeTheHostsMoveOrNothing : Obligations.OtherTurnsMakeTheHostsMoveOrNothing := by
  refine fun s => ⟨fun m rest => step_of_pending_host, fun hidle hp => ?_, fun hidle rest hp => ?_⟩
  · rw [step_of_pending_nil hp, blockTurn_of_not_busy hidle]
  · rw [step_of_pending_block hp]
    exact blockTurn_of_not_busy (s := { s with pending := rest }) hidle

/-- The operations' meanings at the machine's parameters are `exec`. -/
theorem exec_eq_completeAs_hardware : exec = completeAs Config.hardware :=
  funext fun i => funext (exec_eq_completeAs i)

theorem step_eq_stepAt (s : State) : step s = stepAt Config.hardware s := by
  rw [stepAt_eq_takeTurnAt rfl, ← exec_eq_completeAs_hardware]
  rfl

/-- Settles O10: both take the same turn, with meanings that are equal operation by operation. -/
theorem machineIsTheInstanceAtItsParameters : Obligations.MachineIsTheInstanceAtItsParameters :=
  ⟨step_eq_stepAt, exec_eq_completeAs⟩

/-- Settles O11: no host move mentions a parameter, START among them. -/
theorem hostTurnsAreTheSameAtAnyParameters : Obligations.HostTurnsAreTheSameAtAnyParameters := by
  refine fun c s hb => ⟨fun m rest hp => ⟨stepAt_of_pending_host hb hp, ?_⟩, fun rest hp => ?_⟩
  · rw [stepAt_of_pending_host hb hp, step_of_pending_host hp]
  · rw [stepAt_of_pending_host hb hp]
    exact ⟨hostMove_start_not_busy (s := { s with pending := rest }),
      hostMove_start_of_busy (s := { s with pending := rest })⟩

/-- Settles O42: both check the block size before anything else. -/
theorem otherBlockSizesAreRefused : Obligations.OtherBlockSizesAreRefused :=
  fun _ _ _ hb => ⟨if_pos hb, if_neg hb⟩

end Sys2Proof.Machine
end

section
/-!
PROOFS. COMPLETE (40_operation.md R117): the end state of an operation, written out, is what `Encode` returns for the
taken Request.
-/

namespace Sys2Proof.Machine

/-! ### The end state of an operation -/

/-- The checksum calls of an accepted operation (20_memory.md R64): a string's payload, then the header's scope. -/
def entryCalls (i : Instr) (r : Request) (hdr data : List Byte) : List (List Byte) :=
  if i = .encStr then [slice data 0 (r.vlen.toNat + 1), crcScope hdr] else [crcScope hdr]

/-- The scope handed over is the scope of the header the operation leaves (46_crc_scope.md R210). -/
theorem crcScope_assemble_hdr (c : Config) (r : Request) (kf : List Byte) (v : SerializedValue) :
    crcScope (assemble c r kf v).hdr = (assemble c r kf v).work.scope := by
  rw [assemble_hdr, crcScope_headerBlock, assemble_scope]

section
variable {c : Config} {i : Instr} {s : State} {r : Request} {run : Run}

theorem crcCalls_of_operate (h : operate c i r = some run) : run.crcCalls = entryCalls i r run.hdr run.data := by
  obtain ⟨key, v, _, hv, rfl⟩ := operate_eq_some h
  rw [assemble_crcCalls, ← crcScope_assemble_hdr, entryCalls]
  rcases serializeValue_cases hv with ⟨w, hw, rfl⟩ | ⟨hw, text, htext, rfl⟩
  · have hi : i ≠ .encStr := width_isSome_iff.mp (by simp [hw])
    rw [if_neg hi]
    rfl
  · have hlen : (payloadOf text).length = r.vlen.toNat + 1 := by rw [length_payloadOf, length_textBytes htext]
    rw [if_pos (width_eq_none_iff.mp hw), assemble_data, serializeString_data, slice_dataBuffer_payload hlen]
    rfl

/-- RSP_SPAN repeats header byte 2 (10_state.md R32). -/
theorem getElem?_hdr_span_of_operate (h : operate c i r = some run) : run.hdr[2]? = some run.work.span := by
  obtain ⟨key, v, _, _, rfl⟩ := operate_eq_some h
  rw [assemble_hdr, getElem?_headerBlock_span, assemble_span]

/-- COMPLETE on a Request that fails validation. -/
theorem completeAs_of_error {e : ValidationError} (hb : c.blockSize = 32) (htaken : s.taken = some r)
    (hv : validateFor i r = some e) : completeAs c i s = .next (afterError s (statusEnded (errorCode e))) := by
  simp [completeAs, hb, htaken, hv, takeError_eq_afterError]

/-- COMPLETE on an accepted Request whose bytes hold values. -/
theorem completeAs_of_entry (hb : c.blockSize = 32) (htaken : s.taken = some r) (hv : validateFor i r = none)
    (ho : operate c i r = some run) : completeAs c i s =
      .next (afterEntry s run.hdr run.data run.work.span (entryCalls i r run.hdr run.data)) := by
  obtain ⟨_, hdlen, _⟩ := length_data_of_operate hv ho
  rw [← crcCalls_of_operate ho, ← publish_loadWorking run s hdlen]
  simp [completeAs, hb, htaken, hv, ho]

/-- COMPLETE on an accepted Request with a byte missing (70_reset_and_hazards.md R252). -/
theorem completeAs_of_missing (hb : c.blockSize = 32) (htaken : s.taken = some r) (hv : validateFor i r = none)
    (ho : operate c i r = none) : completeAs c i s = .fault .requestByteHoldsNoValue := by
  simp [completeAs, hb, htaken, hv, ho]

end

@[simp] theorem afterEntry_status (s : State) (hdr data : List Byte) (span : Byte) (calls : List (List Byte)) :
    (afterEntry s hdr data span calls).status = 0x02#8 := rfl

@[simp] theorem afterError_status (s : State) (status : BitVec 8) : (afterError s status).status = status := rfl

/-! ### COMPLETE and `Encode` -/

/-- The checksum calls of an entry, by the type that the Request's type byte selects. -/
def encodeCalls (c : Config) (r : Request) (hdr data : List Byte) : List (List Byte) :=
  if selectType c.tagCode r.type = some .encStr then [slice data 0 (r.vlen.toNat + 1), crcScope hdr] else [crcScope hdr]

/-- The outcome of COMPLETE at `s` is what `Encode` returns for the Request: the entry, the error, or a fault where
there is neither. -/
def CompletesAs (c : Config) (r : Request) (s : State) (out : Host.Outcome State Fault Refusal) : Prop :=
  match encodeEntry c r with
  | .ok hdr data => ∃ span, hdr[2]? = some span ∧
      out = .next (afterEntry s hdr data span (encodeCalls c r hdr data))
  | .err e => out = .next (afterError s (statusEnded (errorCode e)))
  | .noValue => out = .fault .requestByteHoldsNoValue

/-- COMPLETE ends the operation with what `Encode` returns (R117), at any parameters of block size 32. -/
theorem completesAs_runOperationAt {c : Config} {s : State} {r : Request} (hb : c.blockSize = 32)
    (htaken : s.taken = some r) : CompletesAs c r s (runOperationAt c (completeAs c) s) := by
  rcases runOperationAt_cases c (completeAs c) htaken with ⟨i, hs, hrun⟩ | ⟨hs, hrun⟩ <;> rw [hrun, CompletesAs]
  · rcases encodeEntry_cases c r with ⟨hnone, _⟩ | ⟨j, hj, hcase⟩
    · simp [hs] at hnone
    obtain rfl : i = j := Option.some.inj (hs.symm.trans hj)
    rcases hcase with ⟨e, hv, he⟩ | ⟨hv, ho, he⟩ | ⟨hv, run, ho, he⟩ <;> rw [he]
    · exact completeAs_of_error hb htaken hv
    · exact completeAs_of_missing hb htaken hv ho
    · refine ⟨_, getElem?_hdr_span_of_operate ho, ?_⟩
      simp only [completeAs_of_entry hb htaken hv ho, entryCalls, encodeCalls, hs, Option.some.injEq]
  · have he : encodeEntry c r = .err (validateUnsupported r) := by simp [encodeEntry, hs]
    rw [he, takeError_eq_afterError]

/-- Settles O18: with no turn pending a step in BUSY is COMPLETE. -/
theorem completeWritesWhatEncodeReturnsAtAnyParameters :
    Obligations.CompleteWritesWhatEncodeReturnsAtAnyParameters := by
  intro c s r hb hbusy htaken hp
  have hstep : stepAt c s = runOperationAt c (completeAs c) s := by
    rw [stepAt_eq_takeTurnAt hb, takeTurnAt, hp]
    exact blockTurnAt_busy hbusy
  rw [hstep]
  exact completesAs_runOperationAt hb htaken

theorem length_hdr_of_encodeEntry {c : Config} {r : Request} {hdr data : List Byte}
    (h : encodeEntry c r = .ok hdr data) : hdr.length = 32 := by
  obtain ⟨i, run, _, hv, ho, rfl, _⟩ := encodeEntry_eq_ok h
  exact length_hdr_of_operate hv ho

/-- A header has a span byte (30_encoding.md R88). -/
theorem exists_span_of_encodeEntry {c : Config} {r : Request} {hdr data : List Byte}
    (h : encodeEntry c r = .ok hdr data) : ∃ span, hdr[2]? = some span :=
  ⟨_, List.getElem?_eq_getElem (by simp [length_hdr_of_encodeEntry h])⟩

section
variable {s : State} {r : Request} (hbusy : phaseOf s.status = .busy) (htaken : s.taken = some r)
include hbusy htaken

/-- The machine's block's turn in BUSY ends the operation with what `Encode` returns. -/
theorem completesAs_blockTurn : CompletesAs Config.hardware r s (blockTurn s) := by
  rw [blockTurn, blockTurnAt_busy hbusy, exec_eq_completeAs_hardware]
  exact completesAs_runOperationAt rfl htaken

theorem blockTurn_of_encodeEntry_err {e : ValidationError} (h : encodeEntry Config.hardware r = .err e) :
    blockTurn s = .next (afterError s (statusEnded (errorCode e))) := by
  simpa only [CompletesAs, h] using completesAs_blockTurn hbusy htaken

theorem blockTurn_of_encodeEntry_noValue (h : encodeEntry Config.hardware r = .noValue) :
    blockTurn s = .fault .requestByteHoldsNoValue := by
  simpa only [CompletesAs, h] using completesAs_blockTurn hbusy htaken

theorem blockTurn_of_encodeEntry_ok {hdr data : List Byte} {span : Byte}
    (h : encodeEntry Config.hardware r = .ok hdr data) (hspan : hdr[2]? = some span) :
    blockTurn s = .next (afterEntry s hdr data span (encodeCalls Config.hardware r hdr data)) := by
  have hcompletes := completesAs_blockTurn hbusy htaken
  simp only [CompletesAs, h] at hcompletes
  obtain ⟨span', hspan', hturn⟩ := hcompletes
  rwa [Option.some.inj (hspan.symm.trans hspan')]

/-- Unless `Encode` would read a byte without a value, the block's turn ends the operation (R117, R257). -/
theorem exists_blockTurn_done (h : encodeEntry Config.hardware r ≠ .noValue) :
    ∃ t, blockTurn s = .next t ∧ phaseOf t.status = .done ∧ t.taken = none ∧ requestOf t = requestOf s := by
  cases he : encodeEntry Config.hardware r with
  | ok hdr data =>
    obtain ⟨_, hspan⟩ := exists_span_of_encodeEntry he
    exact ⟨_, blockTurn_of_encodeEntry_ok hbusy htaken he hspan, by simp, rfl, rfl⟩
  | err e => exact ⟨_, blockTurn_of_encodeEntry_err hbusy htaken he, by simp, rfl, rfl⟩
  | noValue => exact absurd he h

end

/-- Settles O17: the default code `0x21` is the string type's. -/
theorem completeWritesWhatEncodeReturns : Obligations.CompleteWritesWhatEncodeReturns := by
  intro s r hbusy htaken
  have hstr : selectType Config.hardware.tagCode r.type = some .encStr ↔ r.type = 0x21#8 :=
    selectType_defaultTagCode_iff.trans eq_comm
  have hcompletes := completesAs_blockTurn hbusy htaken
  simp only [CompletesAs, encodeCalls, hstr] at hcompletes
  exact hcompletes

/-- Settles O27: the turn ends in `afterError`, whose fields are the statement's. -/
theorem errorRecordsOnlyItsCode : Obligations.ErrorRecordsOnlyItsCode := by
  intro s r e hbusy htaken h
  exact ⟨_, blockTurn_of_encodeEntry_err hbusy htaken h, statusBusy_ended _, statusDone_ended _, statusErr_ended _,
    statusReserved_ended _, readByte_nil, readByte_nil, rfl, rfl, rfl, rfl, rfl, rfl, rfl, rfl, rfl⟩

/-! ### Type bytes that select nothing -/

/-- With a key that fits, an unsupported type byte is the error reported (60_exceptions.md R224, R226). -/
theorem encodeEntry_unsupportedType {c : Config} {r : Request} (hs : selectType c.tagCode r.type = none)
    (hk : r.klen.toNat ≤ 15) : encodeEntry c r = .err .unsupportedType := by
  have he : validateUnsupported r = .unsupportedType := (validateUnsupported_cases r).resolve_left (by omega)
  simp [encodeEntry, hs, he]

/-- Settles O14: nine of 256 bytes are codes, and every other one ends with error 4, STATUS `0x12`. -/
theorem otherTypeBytesEndWithUnsupportedType : Obligations.OtherTypeBytesEndWithUnsupportedType := by
  refine ⟨by decide +kernel, fun s r hbusy htaken hcode hk => ?_⟩
  have hs : selectType Config.hardware.tagCode r.type = none := selectType_eq_none_iff.mpr fun i h => hcode i h.symm
  exact blockTurn_of_encodeEntry_err hbusy htaken (encodeEntry_unsupportedType hs hk)

/-! ### The bytes an operation reads -/

section
variable {c : Config} {i : Instr} {r : Request}

/-- A missing byte leaves a read of several bytes without an answer. -/
theorem readBytes_eq_none {m : Buffer} {n j : Nat} (hj : j < n) (h : readByte m j = none) : readBytes m n 0 = none := by
  cases hread : readBytes m n 0 with
  | none => rfl
  | some bytes =>
    have hget := getElem?_of_readBytes hread hj
    rw [h, List.getElem?_eq_none_iff, (readBytes_eq_some hread).1] at hget
    omega

/-- `Encode` has no value when an operand of an accepted Request has none (R252; log entry 6). -/
theorem encodeEntry_noValue_of_not_held (hs : selectType c.tagCode r.type = some i) (hv : validateFor i r = none)
    (hheld : operandsHeld i r = false) : encodeEntry c r = .noValue := by
  rcases operate_cases c i r with ⟨_, ho⟩ | ⟨hheld', _⟩
  · simp [encodeEntry, hs, hv, ho]
  · simp [hheld] at hheld'

theorem operandsHeld_eq_false_of_key {j : Nat} (hj : j < r.klen.toNat) (h : readByte r.key j = none) :
    operandsHeld i r = false := by
  simp [operandsHeld, keyBytes, readBytes_eq_none hj h]

theorem operandsHeld_eq_false_of_text {j : Nat} (hj : j < r.vlen.toNat) (h : readByte r.vbuf j = none) :
    operandsHeld .encStr r = false := by
  simp [operandsHeld, Instr.width, textBytes, readBytes_eq_none hj h]

/-- The operands are held when each byte of the key, and of a string's text, is. -/
theorem operandsHeld_of_bytes (hkey : ∀ j, j < r.klen.toNat → (readByte r.key j).isSome = true)
    (htext : i = .encStr → ∀ j, j < r.vlen.toNat → (readByte r.vbuf j).isSome = true) : operandsHeld i r = true := by
  have hk : (keyBytes r).isSome = true := readBytes_isSome fun j hj => by simpa using hkey j hj
  cases hw : i.width with
  | some w => simp [operandsHeld, hw, hk]
  | none =>
    have ht : (textBytes r).isSome = true :=
      readBytes_isSome fun j hj => by simpa using htext (width_eq_none_iff.mp hw) j hj
    simp [operandsHeld, hw, hk, ht]

/-- The bytes `Encode` reads are held when an accepted Request's operands are. -/
theorem bytesHeld_of_operandsHeld
    (h : ∀ i, selectType c.tagCode r.type = some i → validateFor i r = none → operandsHeld i r = true) :
    bytesHeld c r = true := by
  cases hs : selectType c.tagCode r.type with
  | none => simp [bytesHeld, hs]
  | some i =>
    cases hv : validateFor i r with
    | none => simp [bytesHeld, hs, hv, h i hs hv]
    | some e => simp [bytesHeld, hs, hv]

end

/-- Settles O44: a missing byte leaves `Encode` without a value, and without one it has an end. -/
theorem completeNeedsTheBytesTheOperationReads : Obligations.CompleteNeedsTheBytesTheOperationReads := by
  intro s r hbusy htaken
  refine ⟨fun i hs hv => ⟨fun j hj hmissing => ?_, fun j hi hj hmissing => ?_⟩, fun hheld => ?_⟩
  · exact blockTurn_of_encodeEntry_noValue hbusy htaken
      (encodeEntry_noValue_of_not_held hs hv (operandsHeld_eq_false_of_key hj hmissing))
  · subst hi
    exact blockTurn_of_encodeEntry_noValue hbusy htaken
      (encodeEntry_noValue_of_not_held hs hv (operandsHeld_eq_false_of_text hj hmissing))
  · have hbytes : bytesHeld Config.hardware r = true := bytesHeld_of_operandsHeld fun i hs hv =>
      operandsHeld_of_bytes (hheld i hs hv).1 (hheld i hs hv).2
    obtain ⟨t, hturn, hdone, _⟩ := exists_blockTurn_done hbusy htaken (encodeEntry_ne_noValue_of_bytesHeld hbytes)
    exact ⟨t, hturn, hdone⟩

end Sys2Proof.Machine
end

section
/-!
PROOFS. The invariant (10_state.md R33 to R35, 20_memory.md R50, R62): it holds at reset and every turn keeps it, at any
type-tag map and checksum function; and what it says of the response that the host can read.
-/

namespace Sys2Proof.Machine

/-! ### Every operation keeps the invariant -/

section
variable {c : Config} {s t : State}

/-- A state without a response is in the invariant when its buffers, its STATUS and its Request are in order. -/
theorem invAt_of_no_response (hwf : s.mem.wf = true) (hlegal : statusLegal s.status = true)
    (hfailed : statusSucceeded s.status = false)
    (hresponse : s.mem.hdr = [] ∧ s.mem.data = [] ∧ s.rspSpan = none ∧ s.rspDlen = none) (hrequest : requestInv s)
    (hwork : s.work = none) : InvAt c s :=
  ⟨hwf, hlegal, by rwa [responseInv, if_neg (by simp [hfailed])], hrequest, hwork⟩

theorem requestInv_of_not_busy (hidle : phaseOf s.status ≠ .busy) (htaken : s.taken = none) : requestInv s := by
  rwa [requestInv, if_neg hidle]

theorem taken_of_busy (h : requestInv s) (hbusy : phaseOf s.status = .busy) : s.taken = some (requestOf s) := by
  rwa [requestInv, if_pos hbusy] at h

theorem taken_of_not_busy (h : requestInv s) (hidle : phaseOf s.status ≠ .busy) : s.taken = none := by
  rwa [requestInv, if_neg hidle] at h

theorem invAt_startOperation (h : InvAt c s) : InvAt c (startOperation s) := by
  obtain ⟨hwf, _⟩ := h
  refine invAt_of_no_response (memory_wf_startOperation hwf) statusLegal_started statusSucceeded_started
    ⟨rfl, rfl, rfl, rfl⟩ ?_ rfl
  rw [requestInv, if_pos (by simp)]
  rfl

theorem invAt_resetBlock (h : InvAt c s) : InvAt c (resetBlock s) := by
  obtain ⟨hwf, _⟩ := h
  exact invAt_of_no_response (memory_wf_resetBlock hwf) statusLegal_idle statusSucceeded_idle ⟨rfl, rfl, rfl, rfl⟩
    (requestInv_of_not_busy (by simp) rfl) rfl

theorem invAt_afterError (e : ValidationError) (h : InvAt c s) :
    InvAt c (afterError s (statusEnded (errorCode e))) := by
  obtain ⟨hwf, _⟩ := h
  rw [← takeError_eq_afterError]
  exact invAt_of_no_response (memory_wf_takeError e hwf) (statusLegal_error e) (statusSucceeded_error e)
    ⟨rfl, rfl, rfl, rfl⟩ (requestInv_of_not_busy (by simp) rfl) rfl

/-- An entry fits HDR and DATA (10_state.md R30, R31). -/
theorem length_of_encodeEntry {r : Request} {hdr data : List Byte} (h : encodeEntry c r = .ok hdr data) :
    hdr.length = 32 ∧ data.length ≤ 4000 := by
  obtain ⟨i, run, _, hv, ho, _, rfl⟩ := encodeEntry_eq_ok h
  exact ⟨length_hdr_of_encodeEntry h, (length_data_of_operate hv ho).1⟩

/-- The end of an operation with what `Encode` returned. -/
theorem invAt_afterEntry {r : Request} {hdr data : List Byte} {span : Byte} (calls : List (List Byte)) (h : InvAt c s)
    (he : encodeEntry c r = .ok hdr data) (hspan : hdr[2]? = some span) :
    InvAt c (afterEntry s hdr data span calls) := by
  obtain ⟨hwf, _⟩ := h
  obtain ⟨hhdr, hdata⟩ := length_of_encodeEntry he
  have hresponse : responseInv c (afterEntry s hdr data span calls) := by
    rw [responseInv, if_pos (by simp)]
    exact ⟨r, hdr, data, he, rfl, rfl, hspan.symm, rfl⟩
  rw [memory_wf_iff] at hwf
  obtain ⟨hkey, hvbuf, _⟩ := hwf
  refine ⟨(memory_wf_iff _).mpr ⟨hkey, hvbuf, ?_, ?_⟩, statusLegal_succeeded, hresponse,
    requestInv_of_not_busy (by simp) rfl, rfl⟩
  · exact risingFrom_bytesAt 32 _ _ _ (Nat.zero_le 0) (by omega)
  · exact risingFrom_bytesAt 4000 _ _ _ (Nat.zero_le 0) (by omega)

/-- A write of the request side outside BUSY keeps the invariant when it keeps the buffers' canonical form. -/
theorem invAt_of_write (h : InvAt c s) (hidle : phaseOf s.status ≠ .busy) (hwf : t.mem.wf = true)
    (hhdr : t.mem.hdr = s.mem.hdr) (hdata : t.mem.data = s.mem.data) (hspan : t.rspSpan = s.rspSpan)
    (hdlen : t.rspDlen = s.rspDlen) (hstatus : t.status = s.status) (htaken : t.taken = s.taken)
    (hwork : t.work = s.work) : InvAt c t := by
  obtain ⟨_, hlegal, hresponse, hrequest, hs⟩ := h
  refine ⟨hwf, hstatus ▸ hlegal, ?_, requestInv_of_not_busy (hstatus ▸ hidle) ?_, hwork.trans hs⟩
  · rwa [responseInv, hhdr, hdata, hspan, hdlen, hstatus]
  · rw [htaken, taken_of_not_busy hrequest hidle]

/-- Every host move keeps the invariant (40_operation.md R118). -/
theorem invAt_hostMove {m : HostMove} (h : InvAt c s) (hm : hostMove m s = .next t) : InvAt c t := by
  have hwf : t.mem.wf = true := memory_wf_hostMove h.1 hm
  rcases hostMove_cases hm with ⟨hidle, hmem, hspan, hdlen, _, hstatus, htaken, hwork, _⟩ | ⟨hidle, a, v, _, _, rfl⟩ |
    ⟨hidle, a, v, _, _, rfl⟩ | ⟨v, rfl⟩ | ⟨_, _, rfl⟩ | ⟨_, _, rfl⟩ | ⟨_, rfl⟩
  · exact invAt_of_write h hidle hwf (by rw [hmem]) (by rw [hmem]) hspan hdlen hstatus htaken hwork
  · exact invAt_of_write h hidle hwf rfl rfl rfl rfl rfl rfl rfl
  · exact invAt_of_write h hidle hwf rfl rfl rfl rfl rfl rfl rfl
  · exact h
  · exact h
  · exact invAt_startOperation h
  · exact invAt_resetBlock h

/-- COMPLETE keeps the invariant: it ends in what `Encode` returned (R117). -/
theorem invAt_of_completesAs {r : Request} (h : InvAt c s) (hc : CompletesAs c r s (.next t)) : InvAt c t := by
  unfold CompletesAs at hc
  split at hc
  case h_1 hdr data he =>
    obtain ⟨span, hspan, hnext⟩ := hc
    cases hnext
    exact invAt_afterEntry _ h he hspan
  case h_2 e he =>
    cases hc
    exact invAt_afterError e h
  case h_3 he => cases hc

/-- The block's turn keeps the invariant at any parameters, in BUSY and outside. -/
theorem invAt_blockTurnAt (hb : c.blockSize = 32) (h : InvAt c s) (hturn : blockTurnAt c (completeAs c) s = .next t) :
    InvAt c t := by
  by_cases hbusy : phaseOf s.status = .busy
  · obtain ⟨_, _, _, hrequest, _⟩ := id h
    rw [blockTurnAt_busy hbusy] at hturn
    exact invAt_of_completesAs h (hturn ▸ completesAs_runOperationAt hb (taken_of_busy hrequest hbusy))
  · rw [blockTurnAt_not_busy hbusy] at hturn
    cases hturn
    exact h

/-- The invariant says nothing of the turns to come. -/
theorem invAt_pending (h : InvAt c s) (turns : List Turn) : InvAt c { s with pending := turns } := h

end

/-- Settles O5: a step takes one turn, and neither the host's moves nor COMPLETE leave the invariant. -/
theorem everyStepKeepsTheInvariantAtAnyParameters : Obligations.EveryStepKeepsTheInvariantAtAnyParameters := by
  intro c s t h hstep
  by_cases hb : c.blockSize = 32
  · rw [stepAt_eq_takeTurnAt hb] at hstep
    rcases takeTurnAt_cases c (completeAs c) s with ⟨_, hturn⟩ | ⟨rest, _, hturn⟩ | ⟨m, rest, _, hturn⟩ <;>
      rw [hturn] at hstep
    · exact invAt_blockTurnAt hb h hstep
    · exact invAt_blockTurnAt hb (invAt_pending h rest) hstep
    · exact invAt_hostMove (invAt_pending h rest) hstep
  · have hrefused : stepAt c s = .refused .unsupportedBlockSize := if_neg hb
    rw [hrefused] at hstep
    cases hstep

/-- Settles O4: the machine's step is that of its own parameters. -/
theorem everyStepKeepsTheInvariant : Obligations.EveryStepKeepsTheInvariant :=
  fun s t h hstep => everyStepKeepsTheInvariantAtAnyParameters Config.hardware s t h (step_eq_stepAt s ▸ hstep)

/-- Settles O3: at reset the block is idle, without a response and without a Request. -/
theorem invariantHoldsAtReset : Obligations.InvariantHoldsAtReset :=
  invAt_of_no_response memory_wf_reset statusLegal_idle statusSucceeded_idle ⟨rfl, rfl, rfl, rfl⟩
    (requestInv_of_not_busy (s := State.reset) (by decide) rfl) rfl

/-- Settles O6: in BUSY the Request taken is the one the ports show, and its bytes are held. -/
theorem busyBlockAlwaysReachesDone : Obligations.BusyBlockAlwaysReachesDone := by
  intro s ⟨_, _, _, hrequest, _⟩ hbusy hheld hturn
  have htaken : s.taken = some (requestOf s) := taken_of_busy hrequest hbusy
  have hvalue : encodeEntry Config.hardware (requestOf s) ≠ .noValue := encodeEntry_ne_noValue_of_bytesHeld hheld
  rcases hturn with hp | hp
  · rw [step_of_pending_nil hp]
    exact exists_blockTurn_done hbusy htaken hvalue
  · obtain ⟨rest, hp⟩ := List.head?_eq_some_iff.mp hp
    rw [step_of_pending_block hp]
    exact exists_blockTurn_done (s := { s with pending := rest }) hbusy htaken hvalue

/-! ### The response -/

/-- RSP_DLEN holds the data-buffer length without loss. -/
theorem toNat_dlen_of_encodeEntry {c : Config} {r : Request} {hdr data : List Byte}
    (h : encodeEntry c r = .ok hdr data) : (BitVec.ofNat 16 data.length).toNat = data.length := by
  obtain ⟨_, hdata⟩ := length_of_encodeEntry h
  rw [BitVec.toNat_ofNat, Nat.mod_eq_of_lt (by omega)]

/-- The buffer of a byte sequence holds values exactly below its length. -/
theorem readByte_bytesAt_isSome_iff (bytes : List Byte) (a : Nat) :
    (readByte (bytesAt 0 bytes) a).isSome = true ↔ a < bytes.length := by
  simp

section
variable {s : State} (h : Inv s)
include h

/-- After an operation without error the response is an Encoded Entry (10_state.md R34). -/
theorem response_of_succeeded (hsucceeded : statusSucceeded s.status = true) :
    ∃ r hdr data, encodeEntry Config.hardware r = .ok hdr data ∧ s.mem.hdr = bytesAt 0 hdr ∧
      s.mem.data = bytesAt 0 data ∧ s.rspSpan = hdr[2]? ∧ s.rspDlen = some (BitVec.ofNat 16 data.length) := by
  obtain ⟨_, _, hresponse, _⟩ := h
  rwa [responseInv, if_pos hsucceeded] at hresponse

/-- In every other status there is none. -/
theorem no_response_of_not_succeeded (hfailed : statusSucceeded s.status = false) :
    s.mem.hdr = [] ∧ s.mem.data = [] ∧ s.rspSpan = none ∧ s.rspDlen = none := by
  obtain ⟨_, _, hresponse, _⟩ := h
  rwa [responseInv, if_neg (by simp [hfailed])] at hresponse

end

theorem crcField_eq_slice (hdr : List Byte) : crcField hdr = slice hdr 4 8 := by
  rw [crcField, slice, List.drop_take]

/-- Settles O7: the response is an Encoded Entry, and these are laws of R121 for it. -/
theorem visibleResponseIsCompleteAndConsistent : Obligations.VisibleResponseIsCompleteAndConsistent := by
  intro s h hsucceeded
  obtain ⟨r, hdr, data, he, hhdr, hdata, hspan, hdlen⟩ := response_of_succeeded h hsucceeded
  obtain ⟨⟨hlen, span, hspan', hdatalen⟩, hchunk, _, _, hcrc, _⟩ := encodedEntryLaws _ _ _ _ he
  have hmax := (length_of_encodeEntry he).2
  have hdlenNat := toNat_dlen_of_encodeEntry he
  refine ⟨hdr, span, BitVec.ofNat 16 data.length, ?_, ?_, hchunk, hspan', hspan.trans hspan', hdlen,
    hdlenNat.trans hdatalen, Nat.le_trans (Nat.le_of_eq hdlenNat) hmax, fun a => ?_, fun a => ?_⟩
  · rw [hhdr, ← hlen, readBytes_bytesAt]
  · rw [crcField_eq_slice, hcrc, slice_append_slice_eq_crcScope hlen]
  · rw [hhdr, readByte_bytesAt_isSome_iff, hlen]
  · rw [hdata, readByte_bytesAt_isSome_iff, hdlenNat]

end Sys2Proof.Machine
end

section
/-!
PROOFS. The nine operations (42_numeric_encoder.md R142 to R150, 43_string_chunker.md R160): what `exec` ends in, what
it leaves unchanged (10_state.md R20), and the checksum calls it makes (20_memory.md R64).
-/

namespace Sys2Proof.Machine

/-! ### The ends of an operation -/

section
variable {i : Instr} {s : State} {r : Request}

theorem exec_of_error {e : ValidationError} (htaken : s.taken = some r) (hv : validateFor i r = some e) :
    exec i s = .next (afterError s (statusEnded (errorCode e))) := by
  rw [exec_eq_completeAs, completeAs_of_error rfl htaken hv]

theorem exec_of_entry {run : Run} (htaken : s.taken = some r) (hv : validateFor i r = none)
    (ho : operate Config.hardware i r = some run) :
    exec i s = .next (afterEntry s run.hdr run.data run.work.span (entryCalls i r run.hdr run.data)) := by
  rw [exec_eq_completeAs, completeAs_of_entry rfl htaken hv ho]

/-- An operation that ends in a next state ends with a validation error or with the entry it computes (R117). -/
theorem exec_eq_next {t : State} (h : exec i s = .next t) : ∃ r, s.taken = some r ∧
    ((∃ e, validateFor i r = some e ∧ t = afterError s (statusEnded (errorCode e))) ∨
     (validateFor i r = none ∧ ∃ run, operate Config.hardware i r = some run ∧
        t = afterEntry s run.hdr run.data run.work.span (entryCalls i r run.hdr run.data))) := by
  rw [exec_eq_completeAs] at h
  rcases completeAs_cases Config.hardware i s with ⟨_, h'⟩ | ⟨_, _, h'⟩ | ⟨_, r, htaken, ⟨e, hv, h'⟩ | ⟨_, _, h'⟩ |
    ⟨hv, run, ho, _⟩⟩
  · cases h'.symm.trans h
  · cases h'.symm.trans h
  · cases h'.symm.trans h
    exact ⟨r, htaken, .inl ⟨e, hv, takeError_eq_afterError e s⟩⟩
  · cases h'.symm.trans h
  · cases (completeAs_of_entry rfl htaken hv ho).symm.trans h
    exact ⟨r, htaken, .inr ⟨hv, run, ho, rfl⟩⟩

end

/-! ### What an operation leaves, and what reaches its result -/

/-- A numeric operation has no data buffer (R150). -/
theorem data_eq_nil_of_numeric {c : Config} {i : Instr} {r : Request} {run : Run} (ho : operate c i r = some run)
    (hi : i ≠ .encStr) : run.data = [] := by
  obtain ⟨key, v, _, hv, rfl⟩ := operate_eq_some ho
  obtain ⟨w, hw⟩ := Option.isSome_iff_exists.mp (width_isSome_iff.mpr hi)
  obtain rfl := serializeValue_numeric hv hw
  rfl

/-- The buffer of a byte sequence holds nothing from its length on. -/
theorem readByte_bytesAt_eq_none {bytes : List Byte} {a : Nat} (h : bytes.length ≤ a) :
    readByte (bytesAt 0 bytes) a = none := by
  simpa using h

/-- Settles O28: an error leaves HDR and DATA empty, an entry leaves exactly its bytes there. -/
theorem operationsFrame : Obligations.OperationsFrame := by
  intro i s t h
  obtain ⟨r, _, ⟨e, _, rfl⟩ | ⟨hv, run, ho, rfl⟩⟩ := exec_eq_next h
  · exact ⟨rfl, rfl, rfl, rfl, rfl, rfl, rfl, fun _ => rfl, fun _ => rfl, fun a _ => readByte_nil a,
      fun a _ => readByte_nil a, fun _ => readByte_nil, rfl, rfl, rfl, rfl⟩
  · obtain ⟨hmax, _⟩ := length_data_of_operate hv ho
    refine ⟨rfl, rfl, rfl, rfl, rfl, rfl, rfl, fun _ => rfl, fun _ => rfl, fun a ha => ?_, fun a ha => ?_,
      fun hi a => ?_, rfl, rfl, rfl, rfl⟩
    · exact readByte_bytesAt_eq_none (length_hdr_of_operate hv ho ▸ ha)
    · have hdlen : (BitVec.ofNat 16 run.data.length).toNat ≤ a := ha _ rfl
      rw [BitVec.toNat_ofNat, Nat.mod_eq_of_lt (by omega)] at hdlen
      exact readByte_bytesAt_eq_none hdlen
    · exact readByte_bytesAt_eq_none (by simp [data_eq_nil_of_numeric ho hi])

/-- Settles O29: both ends of an operation are computed from the taken Request. -/
theorem nothingIsCarriedBetweenOperations : Obligations.NothingIsCarriedBetweenOperations := by
  intro i s s' t hsame h
  obtain ⟨r, htaken, ⟨e, hv, rfl⟩ | ⟨hv, run, ho, rfl⟩⟩ := exec_eq_next h
  · exact ⟨_, exec_of_error (hsame ▸ htaken) hv, rfl, rfl, rfl, rfl, rfl, rfl⟩
  · exact ⟨_, exec_of_entry (hsame ▸ htaken) hv ho, rfl, rfl, rfl, rfl, rfl, rfl⟩

/-! ### The checksum calls -/

/-- Reading the first bytes of the buffer of a byte sequence. -/
theorem readBytes_bytesAt_slice {bytes : List Byte} {n : Nat} (hn : n ≤ bytes.length) :
    readBytes (bytesAt 0 bytes) n 0 = some (slice bytes 0 n) := by
  have hlen : (bytes.take n).length = n := List.length_take_of_le hn
  have hread := readBytes_bytesAt (bytes.take n)
  rw [hlen] at hread
  rw [slice, List.drop_zero, ← hread]
  exact readBytes_congr fun j hj => by simp [hj]

/-- The last four bytes of the scope are the last four of the header, where a string's payload checksum stands. -/
theorem slice_crcScope_last {hdr : List Byte} (hlen : hdr.length = 32) :
    slice (crcScope hdr) 24 28 = slice hdr 28 32 := by
  have hfront : (hdr.take 4).length = 4 := List.length_take_of_le (by omega)
  rw [crcScope, slice_append_right hfront _ 20 24, slice, slice, List.take_drop, List.drop_drop]

theorem errorCode_ne_zero (e : ValidationError) : errorCode e ≠ 0#3 := by
  cases e <;> decide

section
variable {c : Config} {r : Request} {run : Run} (hv : validateFor .encStr r = none)
  (ho : operate c .encStr r = some run)
include hv ho

/-- The payload of a string fits its data buffer (43_string_chunker.md R163). -/
theorem payload_le_length_data : r.vlen.toNat + 1 ≤ run.data.length ∧ r.vlen.toNat + 1 ≤ 4000 := by
  obtain ⟨hmax, _⟩ := length_data_of_operate hv ho
  obtain ⟨key, v, _, hs, rfl⟩ := operate_eq_some ho
  obtain ⟨text, htext, rfl⟩ := serializeValue_string hs rfl
  have hlen : r.vlen.toNat + 1 ≤ (dataBuffer (payloadOf text)).length := by
    rw [← length_textBytes htext, length_dataBuffer, dataLength_stringSpan, length_payloadOf]
    omega
  exact ⟨hlen, Nat.le_trans hlen hmax⟩

/-- The payload's checksum lies in the header's scope (46_crc_scope.md). -/
theorem slice_crcScope_payloadChecksum :
    slice (crcScope run.hdr) 24 28 = (c.crc32 (slice run.data 0 (r.vlen.toNat + 1))).toList := by
  rw [slice_crcScope_last (length_hdr_of_operate hv ho)]
  obtain ⟨key, v, hkey, hs, rfl⟩ := operate_eq_some ho
  have hk : key.length ≤ 15 := length_keyBytes hkey ▸ klen_le_of_valid hv
  obtain ⟨_, _, _, _, _, _, hpcrc⟩ := stringEntry_law rfl (length_keyField hk) hs rfl
  exact hpcrc

end

/-- No call is on the empty sequence (R64). -/
theorem ne_nil_of_mem_entryCalls {c : Config} {i : Instr} {r : Request} {run : Run} (hv : validateFor i r = none)
    (ho : operate c i r = some run) {call : List Byte} (hcall : call ∈ entryCalls i r run.hdr run.data) :
    call ≠ [] := by
  have hscope : (crcScope run.hdr).length = 28 := length_crcScope (length_hdr_of_operate hv ho)
  have hne : crcScope run.hdr ≠ [] := List.ne_nil_of_length_pos (by omega)
  by_cases hi : i = .encStr
  · subst hi
    obtain ⟨hle, _⟩ := payload_le_length_data hv ho
    have hpayload : slice run.data 0 (r.vlen.toNat + 1) ≠ [] := List.ne_nil_of_length_pos (by simp [slice]; omega)
    rw [entryCalls, if_pos rfl, List.mem_cons, List.mem_singleton] at hcall
    rcases hcall with rfl | rfl
    · exact hpayload
    · exact hne
  · rw [entryCalls, if_neg hi, List.mem_singleton] at hcall
    exact hcall ▸ hne

/-- Settles O30: an error makes no call, an entry makes the calls of `entryCalls` on what it leaves in HDR and DATA. -/
theorem checksumCallsOfAnOperation : Obligations.ChecksumCallsOfAnOperation := by
  intro i s t r htaken h
  obtain ⟨r', htaken', ⟨e, _, rfl⟩ | ⟨hv, run, ho, rfl⟩⟩ := exec_eq_next h <;>
    obtain rfl : r = r' := Option.some.inj (htaken.symm.trans htaken')
  · have herr : statusErr (afterError s (statusEnded (errorCode e))).status ≠ 0#3 := by simp [errorCode_ne_zero]
    exact ⟨fun _ => rfl, fun hok => absurd hok herr, fun hok => absurd hok herr, fun _ hcall => nomatch hcall⟩
  · have hlen : run.hdr.length = 32 := length_hdr_of_operate hv ho
    have hscope : (crcScope run.hdr).length = 28 := length_crcScope hlen
    have hread : readBytes (bytesAt 0 run.hdr) 32 0 = some run.hdr := hlen ▸ readBytes_bytesAt run.hdr
    refine ⟨fun herr => absurd (statusErr_ended 0#3) herr, fun _ hi => ⟨run.hdr, hread, if_neg hi, hscope⟩,
      fun _ hi => ?_, fun _ => ne_nil_of_mem_entryCalls hv ho⟩
    subst hi
    obtain ⟨hle, hmax⟩ := payload_le_length_data hv ho
    have hpayload : (slice run.data 0 (r.vlen.toNat + 1)).length = r.vlen.toNat + 1 := by
      rw [slice, List.drop_zero, List.length_take_of_le hle]
    exact ⟨run.hdr, _, hread, readBytes_bytesAt_slice hle, rfl, hscope, hpayload, Nat.le_trans (Nat.le_of_eq hpayload) hmax,
      slice_crcScope_payloadChecksum hv ho⟩

/-! ### Validation of one type -/

section
variable {i : Instr} {r : Request}

theorem validateFor_of_long_key (hk : 15 < r.klen.toNat) : validateFor i r = some .keyTooLong := by
  simp [validateFor, checkKey, hk]

section
variable (hk : r.klen.toNat ≤ 15)
include hk

/-- With a key that fits, the checks of kind and length decide (R226). -/
theorem validateFor_of_short_key : validateFor i r = checkValue i r := by
  simp [validateFor, checkKey, Nat.not_lt.mpr hk]

theorem validateFor_number_of_text {w : Nat} (hw : i.width = some w) (hkind : r.vkind = 1#1) :
    validateFor i r = some .typeMismatch := by
  simp [validateFor_of_short_key hk, checkValue, hw, hkind]

theorem validateFor_number_of_number {w : Nat} (hw : i.width = some w) (hkind : r.vkind = 0#1) :
    validateFor i r = none :=
  (validateFor_eq_none_iff i r).mpr ⟨hk, fun _ => hkind, fun hnone => by simp [hw] at hnone⟩

theorem validateFor_string_of_number (hkind : r.vkind = 0#1) : validateFor .encStr r = some .typeMismatch := by
  simp [validateFor_of_short_key hk, checkValue, Instr.width, hkind]

theorem validateFor_string_of_long_text (hkind : r.vkind = 1#1) (hl : 4000 < r.vlen.toNat + 1) :
    validateFor .encStr r = some .valueTooLarge := by
  have hnumber : ¬ r.vkind = 0#1 := by simp [hkind]
  rw [validateFor_of_short_key hk]
  exact (if_neg hnumber).trans (if_pos hl)

theorem validateFor_string_of_text (hkind : r.vkind = 1#1) (hl : r.vlen.toNat + 1 ≤ 4000) :
    validateFor .encStr r = none :=
  (validateFor_eq_none_iff _ r).mpr
    ⟨hk, fun hsome => by simp [Instr.width] at hsome, fun _ => ⟨hkind, Nat.le_of_succ_le_succ hl⟩⟩

end

end

/-! ### The numeric operations -/

/-- Byte `k` of a number is not affected by cutting off the bits from byte `w` on. -/
theorem ofNat_mod_div_eq_extractLsb' (v : BitVec 64) {w k : Nat} (hk : k < w) :
    BitVec.ofNat 8 (v.toNat % 2 ^ (8 * w) / 256 ^ k) = v.extractLsb' (8 * k) 8 := by
  have hbase : 256 ^ k = 2 ^ (8 * k) := (Nat.pow_mul 2 8 k).symm
  have hsplit : 2 ^ (8 * w) = 2 ^ (8 * k) * 2 ^ (8 * (w - k)) := by rw [← Nat.pow_add]; congr 1; omega
  have hdvd : 2 ^ 8 ∣ 2 ^ (8 * (w - k)) := Nat.pow_dvd_pow 2 (by omega)
  apply BitVec.eq_of_toNat_eq
  rw [BitVec.toNat_ofNat, BitVec.extractLsb'_toNat, hbase, hsplit, Nat.mod_mul_right_div_self,
    Nat.mod_mod_of_dvd _ hdvd, Nat.shiftRight_eq_div_pow]

/-- The bytes of a number's low bits, least significant first (R140). -/
theorem leBytes_toNat (w : Nat) (v : BitVec 64) :
    leBytes w (v.toNat % 2 ^ (8 * w)) = (List.range w).map fun k => v.extractLsb' (8 * k) 8 := by
  apply List.ext_getElem?
  intro k
  by_cases hk : k < w
  · rw [getElem?_leBytes _ _ _ hk, List.getElem?_map, List.getElem?_range hk, Option.map_some,
      ofNat_mod_div_eq_extractLsb' v hk]
  · rw [List.getElem?_eq_none (by simpa using hk), List.getElem?_eq_none (by simpa using hk)]

/-- The numeric data field of a port's value, byte by byte. -/
theorem numField_toNat (w : Nat) (v : BitVec 64) :
    numField w v.toNat = ((List.range w).map fun k => v.extractLsb' (8 * k) 8) ++ rep padData (8 - w) := by
  rw [numField, leBytes_toNat]

theorem operate_numeric {c : Config} {i : Instr} {w : Nat} {r : Request} {key : List Byte} (hw : i.width = some w)
    (hkey : keyBytes r = some key) :
    operate c i r = some (assemble c r (keyField key) (serializeNumeric w (numericOperand r))) := by
  simp [operate, hkey, serializeValue, hw]

/-- A numeric operation is its tag, its width and its data field (R150): the other steps are shared. -/
theorem numericOperation_of_numField {i : Instr} {w : Nat} {df : BitVec 64 → List Byte} (hw : i.width = some w)
    (hdf : ∀ v : BitVec 64, numField w v.toNat = df v) : NumericOperation i (defaultTagCode i) df := by
  refine ⟨selectType_defaultTagCode_iff.mpr rfl, fun s r htaken htype => ⟨fun hk => ?_, fun hk hkind => ?_,
    fun hk hkind key hkey => ?_⟩⟩
  · exact exec_of_error htaken (validateFor_of_long_key hk)
  · exact exec_of_error htaken (validateFor_number_of_text hk hw hkind)
  · have hv : validateFor i r = none := validateFor_number_of_number hk hw hkind
    have hkl : key.length ≤ 15 := length_keyBytes hkey ▸ hk
    have hstr : i ≠ .encStr := width_isSome_iff.mp (by simp [hw])
    have hfield : (serializeNumeric w (numericOperand r)).df = df r.vnum := hdf r.vnum
    rw [exec_of_entry htaken hv (operate_numeric hw hkey), entryCalls, if_neg hstr, assemble_hdr, assemble_data,
      crcScope_headerBlock, keyField_eq_paddedKey hkl, htype, hfield]
    rfl

/-- Settles O22: one byte of the number and seven fill bytes; the corner cases are computed. -/
theorem eightBitOperations : Obligations.EightBitOperations :=
  ⟨numericOperation_of_numField rfl (numField_toNat 1),
    numericOperation_of_numField rfl (numField_toNat 1), by decide⟩

/-- Settles O23: two bytes of the number and six fill bytes. -/
theorem sixteenBitOperations : Obligations.SixteenBitOperations :=
  ⟨numericOperation_of_numField rfl (numField_toNat 2),
    numericOperation_of_numField rfl (numField_toNat 2), by decide⟩

/-- Settles O24: four bytes of the number and four fill bytes. -/
theorem thirtyTwoBitOperations : Obligations.ThirtyTwoBitOperations :=
  ⟨numericOperation_of_numField rfl (numField_toNat 4),
    numericOperation_of_numField rfl (numField_toNat 4), by decide⟩

/-- Every 64-bit pattern is in the range of the 64-bit types (R148, R149). -/
theorem inRange_sixtyFour (v : BitVec 64) : inRange .encU64 v ∧ inRange .encI64 v :=
  ⟨v.isLt, BitVec.le_toInt v, BitVec.toInt_lt⟩

/-- Settles O25: all eight bytes of the number and no fill byte. -/
theorem sixtyFourBitOperations : Obligations.SixtyFourBitOperations :=
  ⟨numericOperation_of_numField rfl (numField_toNat 8),
    numericOperation_of_numField rfl (numField_toNat 8), inRange_sixtyFour, by decide⟩

/-! ### The string operation -/

theorem operate_string {c : Config} {r : Request} {key text : List Byte} (hkey : keyBytes r = some key)
    (htext : textBytes r = some text) :
    operate c .encStr r = some (assemble c r (keyField key) (serializeString c.crc32 text)) := by
  simp [operate, hkey, serializeValue, Instr.width, htext]

/-- The data buffer of a text, in terms of its payload length (R163). -/
theorem dataBuffer_payloadOf (text : List Byte) : dataBuffer (payloadOf text) =
    text ++ [0x00#8] ++ rep 0xFF#8 ((text.length + 1 + 31) / 32 * 32 - (text.length + 1)) := by
  rw [dataBuffer, dataLength_stringSpan, length_payloadOf, payloadOf]

/-- Settles O26: the checks in their order, and the entry that the operation assembles from key and text. -/
theorem stringOperation : Obligations.StringOperation := by
  refine ⟨rfl, fun s r htaken htype => ⟨fun hk => ?_, fun hk hkind => ?_, fun hk hkind hl => ?_,
    fun hk hkind hl key text hkey htext => ?_⟩, rfl, rfl, by decide, fun _ => rfl⟩
  · exact exec_of_error htaken (validateFor_of_long_key hk)
  · exact exec_of_error htaken (validateFor_string_of_number hk hkind)
  · exact exec_of_error htaken (validateFor_string_of_long_text hk hkind hl)
  · have hv : validateFor .encStr r = none := validateFor_string_of_text hk hkind hl
    have hkl : key.length ≤ 15 := length_keyBytes hkey ▸ hk
    have hlen : (payloadOf text).length = r.vlen.toNat + 1 := by rw [length_payloadOf, length_textBytes htext]
    rw [exec_of_entry htaken hv (operate_string hkey htext), entryCalls, if_pos rfl, assemble_hdr, assemble_data,
      assemble_span, crcScope_headerBlock, keyField_eq_paddedKey hkl, htype, serializeString_data,
      slice_dataBuffer_payload hlen, serializeString_df, serializeString_span, stringField_eq, dataBuffer_payloadOf,
      length_textBytes htext]
    rfl

end Sys2Proof.Machine
end

section
/-!
PROOFS. The priority of the validation errors (60_exceptions.md R226, R227).
-/

namespace Sys2Proof.Machine

section
variable {c : Config} {r : Request}

/-- A key too long is reported whatever the type byte selects. -/
theorem encodeEntry_of_long_key (hk : 15 < r.klen.toNat) : encodeEntry c r = .err .keyTooLong := by
  cases hs : selectType c.tagCode r.type with
  | none => simp [encodeEntry, hs, validateUnsupported, checkKey, hk]
  | some i => simp [encodeEntry, hs, validateFor_of_long_key hk]

/-- A wrong kind is a number for a string or text for a number; a value too large is a text for a string. -/
theorem not_typeMismatch_and_valueTooLarge :
    ¬ (causeHolds c r .typeMismatch ∧ causeHolds c r .valueTooLarge) := by
  rintro ⟨⟨i, hs, hkind⟩, hstr, htext, _⟩
  obtain rfl : i = .encStr := Option.some.inj (hs.symm.trans hstr)
  simp [htext] at hkind

/-- A type byte that is no code selects nothing. -/
theorem not_unsupportedType_of_selectType {i : Instr} (hs : selectType c.tagCode r.type = some i) :
    ¬ causeHolds c r .unsupportedType :=
  fun h => h i (tagCode_of_selectType hs)

/-- The conditions other than `KeyTooLong` exclude one another (R227). -/
theorem eq_of_causeHolds {e e' : ValidationError} (he : e ≠ .keyTooLong) (he' : e' ≠ .keyTooLong)
    (hc : causeHolds c r e) (hc' : causeHolds c r e') : e = e' := by
  cases e <;> cases e'
  case keyTooLong.keyTooLong | typeMismatch.typeMismatch | valueTooLarge.valueTooLarge |
    unsupportedType.unsupportedType => rfl
  case keyTooLong.typeMismatch | keyTooLong.valueTooLarge | keyTooLong.unsupportedType => exact absurd rfl he
  case typeMismatch.keyTooLong | valueTooLarge.keyTooLong | unsupportedType.keyTooLong => exact absurd rfl he'
  case typeMismatch.valueTooLarge => exact absurd ⟨hc, hc'⟩ not_typeMismatch_and_valueTooLarge
  case valueTooLarge.typeMismatch => exact absurd ⟨hc', hc⟩ not_typeMismatch_and_valueTooLarge
  case typeMismatch.unsupportedType =>
    obtain ⟨i, hs, _⟩ := hc
    exact absurd hc' (not_unsupportedType_of_selectType hs)
  case unsupportedType.typeMismatch =>
    obtain ⟨i, hs, _⟩ := hc'
    exact absurd hc (not_unsupportedType_of_selectType hs)
  case valueTooLarge.unsupportedType => exact absurd hc' (not_unsupportedType_of_selectType hc.1)
  case unsupportedType.valueTooLarge => exact absurd hc (not_unsupportedType_of_selectType hc'.1)

end

/-- Settles O20: the error reported has its own condition, which without a long key is the only one. -/
theorem priorityOfErrors : Obligations.PriorityOfErrors := by
  refine fun c r => ⟨encodeEntry_of_long_key, fun e e' => eq_of_causeHolds, fun e hc hshort => ?_⟩
  obtain ⟨e', h⟩ := exists_encodeEntry_eq_err_of_causeHolds hc
  have hc' : causeHolds c r e' := causeHolds_of_encodeEntry_eq_err h
  have hne : ∀ e, causeHolds c r e → e ≠ .keyTooLong := fun e he heq => hshort (heq ▸ he)
  rw [h, eq_of_causeHolds (hne e' hc') (hne e hc) hc' hc]

end Sys2Proof.Machine
end

section
/-!
PROOFS. The sub-blocks: the key field and what it determines (41_key_serializer.md R134), the value read back from the
data field (42_numeric_encoder.md R141), and the blocks as the block counter produces them (44_block_counter.md R184).
-/

namespace Sys2Proof.Machine

/-! ### The key field -/

/-- A key without a zero byte is what precedes the first zero of its key field. -/
theorem takeWhile_keyField {key : List Byte} (h : 0x00#8 ∉ key) : (keyField key).takeWhile (· != 0x00#8) = key := by
  have hkey : ∀ b ∈ key, (b != 0x00#8) = true := fun b hb => bne_iff_ne.mpr fun h0 => h (h0 ▸ hb)
  rw [keyField, List.append_assoc, List.takeWhile_append_of_pos hkey]
  simp

/-- Settles O31: the first zero byte ends such a key, and a zero byte at a key's end reads like padding. -/
theorem keyFieldIsInjectiveWithoutZeroBytes : Obligations.KeyFieldIsInjectiveWithoutZeroBytes := by
  refine ⟨fun k k' _ _ hk hk' h => ?_, by decide⟩
  rw [← takeWhile_keyField hk, ← takeWhile_keyField hk', h]

/-! ### The value read back -/

/-- The low `w` bytes of a data field are the number's low `8 w` bits (R140). -/
theorem leValue_take_numField (w v : Nat) : leValue ((numField w v).take w) = v % 2 ^ (8 * w) := by
  have htake : (numField w v).take w = leBytes w (v % 2 ^ (8 * w)) := by
    rw [numField, List.take_left' (length_leBytes ..)]
  have hpow : 256 ^ w = 2 ^ (8 * w) := (Nat.pow_mul 2 8 w).symm
  rw [htake, leValue_leBytes, hpow, Nat.mod_mod]

/-- The low `m` bits of a two's complement pattern are its value modulo `2 ^ m`. -/
theorem toNat_mod_eq_toInt_emod (v : BitVec 64) {m : Nat} (hm : m ≤ 64) :
    ((v.toNat % 2 ^ m : Nat) : Int) = v.toInt % 2 ^ m := by
  have hcast : ((v.toNat % 2 ^ m : Nat) : Int) = (v.toNat : Int) % 2 ^ m := by
    rw [Int.natCast_emod, Int.natCast_pow]
    rfl
  have hdvd : (2 : Int) ^ m ∣ ((2 ^ 64 : Nat) : Int) := by
    have hpow : ((2 ^ m : Nat) : Int) ∣ ((2 ^ 64 : Nat) : Int) := Int.natCast_dvd_natCast.mpr (Nat.pow_dvd_pow 2 hm)
    rw [Int.natCast_pow 2 m] at hpow
    exact hpow
  rw [hcast, BitVec.toInt_eq_toNat_cond]
  split
  · rfl
  · rw [Int.sub_emod, Int.emod_eq_zero_of_dvd hdvd, Int.sub_zero, Int.emod_emod]

/-- Two's complement: an integer in the signed range of `h + h` values is read back from its residue. -/
theorem signed_of_emod {x n h : Int} (hlo : -h ≤ x) (hhi : x < h) (hn : n = x % (h + h)) :
    (if n < h then n else n - (h + h)) = x := by
  by_cases hx : 0 ≤ x
  · have hres : n = x := hn.trans (Int.emod_eq_of_lt hx (by omega))
    rw [if_pos (by omega), hres]
  · have hres : n = x + (h + h) := by
      rw [hn, ← Int.add_emod_right, Int.emod_eq_of_lt (by omega) (by omega)]
    rw [if_neg (by omega)]
    omega

theorem signed_isSome_of_width {i : Instr} {w : Nat} (hw : i.width = some w) : ∃ b, i.signed = some b := by
  cases i <;> simp [Instr.width, Instr.signed] at hw ⊢

theorem width_pos (i : Instr) {w : Nat} (hw : i.width = some w) : 0 < w := by
  cases i <;> simp [Instr.width] at hw <;> omega

/-- Under `InRange` a reader gets the operand's value, signed or unsigned as the type is. -/
theorem readBack_numField {i : Instr} {w : Nat} {v : BitVec 64} (hw : i.width = some w) (hr : inRange i v) :
    readBack i (numField w v.toNat) = some (operandValue i v) := by
  obtain ⟨b, hs⟩ := signed_isSome_of_width hw
  cases b with
  | false =>
    have hlt : v.toNat < 2 ^ (8 * w) := by simpa only [inRange, hw, hs] using hr
    simp only [readBack, operandValue, hw, hs, leValue_take_numField, Nat.mod_eq_of_lt hlt]
  | true =>
    obtain ⟨hlo, hhi⟩ : -(2 ^ (8 * w - 1) : Int) ≤ v.toInt ∧ v.toInt < (2 ^ (8 * w - 1) : Int) := by
      simpa only [inRange, hw, hs] using hr
    have hpos := width_pos i hw
    have hle := width_le i hw
    have hdouble : (2 : Int) ^ (8 * w) = 2 ^ (8 * w - 1) + 2 ^ (8 * w - 1) := by
      rw [← Int.two_mul, ← Int.pow_succ', Nat.sub_add_cancel (by omega)]
    have hres := toNat_mod_eq_toInt_emod v (m := 8 * w) (by omega)
    simp only [readBack, operandValue, hw, hs, leValue_take_numField, Option.some.injEq]
    rw [hdouble] at hres ⊢
    have hread := signed_of_emod hlo hhi hres
    rw [← hread]
    norm_cast

/-- Settles O32: the field is made of the low bits alone, and in range they determine the value. -/
theorem inRangeValuesCanBeReadBack : Obligations.InRangeValuesCanBeReadBack :=
  ⟨fun w v v' h => by rw [numField, numField, h], fun _ _ _ => readBack_numField⟩

/-! ### The blocks one by one -/

/-- The next block of a payload's rest is its first 32 bytes, padded. -/
theorem dataBlock_eq (payload : List Byte) (off : Nat) :
    dataBlock payload off = (payload.drop off).take 32 ++ rep 0xFF#8 (32 - (payload.drop off).length) := by
  have hpad : 32 - min 32 (payload.drop off).length = 32 - (payload.drop off).length := by omega
  rw [dataBlock, List.length_take, blockBytes, hpad]

/-- Fill bytes before and after a block boundary are one run of fill bytes. -/
theorem rep_append_rep (b : Byte) (m n : Nat) : rep b m ++ rep b n = rep b (m + n) :=
  List.replicate_append_replicate

/-- `n` blocks from block `k + 1` on hold the payload from offset `32 k` on, as far as it goes, and then padding. -/
theorem produceBlocks_eq (payload : List Byte) : ∀ n k : Nat, produceBlocks payload n (k + 1) =
    (payload.drop (k * 32)).take (n * 32) ++ rep 0xFF#8 (n * 32 - (payload.drop (k * 32)).length)
  | 0, k => by simp [produceBlocks]
  | n + 1, k => by
    have hoff : blockOffset (k + 1) - blockBytes = k * 32 := by
      rw [blockOffset, Nat.succ_mul, Nat.add_sub_cancel]
    have hnext : payload.drop ((k + 1) * 32) = (payload.drop (k * 32)).drop 32 := by
      rw [List.drop_drop, Nat.succ_mul]
    rw [produceBlocks, hoff, dataBlock_eq, produceBlocks_eq payload n (k + 1), hnext]
    generalize payload.drop (k * 32) = rest
    by_cases hfull : 32 ≤ rest.length
    · have hcount : (n + 1) * 32 = 32 + n * 32 := by omega
      have hpad : n * 32 - (rest.length - 32) = 32 + n * 32 - rest.length := by omega
      rw [Nat.sub_eq_zero_of_le hfull, rep_zero, List.append_nil, hcount, List.take_add, List.length_drop, hpad,
        List.append_assoc]
    · have hrest : rest.drop 32 = [] := List.drop_eq_nil_of_le (by omega)
      have hpad : 32 - rest.length + n * 32 = (n + 1) * 32 - rest.length := by omega
      rw [hrest, List.take_nil, List.length_nil, Nat.sub_zero, List.nil_append, List.append_assoc, rep_append_rep, hpad,
        List.take_of_length_le (by omega), List.take_of_length_le (by omega)]

/-- Settles O35: from block 1 on the blocks hold the whole payload and fill up the last one. -/
theorem blockCounterBuildsTheDataBuffer : Obligations.BlockCounterBuildsTheDataBuffer := by
  intro payload _
  have hle : payload.length ≤ dataLength (stringSpan payload.length) := (dataLength_stringSpan_laws _).1
  rw [produceBlocks_eq payload _ 0, Nat.zero_mul, List.drop_zero]
  exact congrArg (· ++ _) (List.take_of_length_le hle)

end Sys2Proof.Machine
end

section
/-!
PROOFS. The two checksum instances (20_memory.md R66, R67): their check values, and that a single-bit change is always
detected (00_scope.md R12), because each step of the register loses nothing.
-/

namespace Sys2Proof.Machine

/-- Settles O40: both checksums are computed. -/
theorem checksumCheckValues : Obligations.ChecksumCheckValues := by
  refine ⟨?_, ?_, ?_, ?_, ?_, ?_⟩ <;> decide +kernel

/-- The top bit after a division step is the bit that was shifted out, since the polynomial's top bit is set. -/
theorem getLsbD_crcBit_top (x : BitVec 32) : (crcBit x).getLsbD 31 = x.getLsbD 0 := by
  unfold crcBit
  split <;> simp_all

/-- A division step loses nothing. -/
theorem crcBit_injective : Function.Injective crcBit := by
  intro x y h
  have hlow : x.getLsbD 0 = y.getLsbD 0 := by rw [← getLsbD_crcBit_top, h, getLsbD_crcBit_top]
  have hshift : x >>> 1 = y >>> 1 := by
    unfold crcBit at h
    rw [hlow] at h
    split at h
    · exact (BitVec.xor_left_inj _).mp h
    · exact h
  apply BitVec.eq_of_getLsbD_eq
  intro k _
  cases k with
  | zero => exact hlow
  | succ k =>
    have hbit := congrArg (BitVec.getLsbD · k) hshift
    simpa [Nat.add_comm 1 k] using hbit

theorem crcBits_injective (n : Nat) : Function.Injective (crcBits n) := by
  induction n with
  | zero => exact fun _ _ h => h
  | succ n ih => exact ih.comp crcBit_injective

/-- The register after a byte determines the register before it. -/
theorem crcByte_left_injective (b : Byte) : Function.Injective fun x => crcByte x b :=
  fun _ _ h => (BitVec.xor_left_inj _).mp (crcBits_injective 8 h)

/-- Different bytes lead to different registers. -/
theorem crcByte_right_injective (x : BitVec 32) : Function.Injective (crcByte x) := by
  intro b b' h
  have hwide : b.setWidth 32 = b'.setWidth 32 := (BitVec.xor_right_inj _).mp (crcBits_injective 8 h)
  have hback := congrArg (BitVec.setWidth 8) hwide
  simpa using hback

/-- The register after a sequence determines the register before it. -/
theorem crcRegister_injective (bytes : List Byte) : Function.Injective fun x => crcRegister x bytes := by
  induction bytes with
  | nil => exact fun _ _ h => h
  | cons b bytes ih => exact ih.comp (crcByte_left_injective b)

/-- An inverted bit changes its byte. -/
theorem flip_ne_self (x : Byte) {b : Nat} (hb : b < 8) : x ^^^ (1#8 <<< b) ≠ x := by
  intro h
  have hbit := congrArg (BitVec.getLsbD · b) h
  simp [hb] at hbit

/-- One inverted bit changes the register, from any initial value. -/
theorem crcRegister_flipBit_ne {b : Nat} (hb : b < 8) : ∀ (bytes : List Byte) (i : Nat) (init : BitVec 32),
    i < bytes.length → crcRegister init (flipBit bytes i b) ≠ crcRegister init bytes
  | x :: xs, 0, init, _ => fun h =>
    flip_ne_self x hb (crcByte_right_injective init (crcRegister_injective xs h))
  | x :: xs, i + 1, init, hi => crcRegister_flipBit_ne hb xs i (crcByte init x) (Nat.lt_of_succ_lt_succ hi)

/-- The four output bytes determine the register. -/
theorem crcOutput_injective : Function.Injective crcOutput := by
  have hjoin : ∀ r : BitVec 32,
      r.extractLsb' 24 8 ++ r.extractLsb' 16 8 ++ r.extractLsb' 8 8 ++ r.extractLsb' 0 8 = r := by
    intro r
    apply BitVec.eq_of_getLsbD_eq
    intro k hk
    simp only [BitVec.getLsbD_append, BitVec.getLsbD_extractLsb']
    grind
  intro r r' h
  simp only [crcOutput, Vector.mk.injEq, Array.mk.injEq, List.cons.injEq, and_true] at h
  obtain ⟨h0, h1, h2, h3⟩ := h
  rw [← hjoin r, ← hjoin r', h0, h1, h2, h3]

/-- From any initial value, the checksum made of the register's complement detects a single-bit change (R66, R67). -/
theorem singleBitDetect_crc (init : BitVec 32) :
    SingleBitDetect fun bytes => crcOutput (crcRegister init bytes ^^^ 0xFFFFFFFF#32) :=
  fun bytes i _ hi hb h =>
    crcRegister_flipBit_ne hb bytes i init hi ((BitVec.xor_left_inj _).mp (crcOutput_injective h))

/-- Settles O41: the two checksums differ in the initial value alone. -/
theorem checksumsDetectEverySingleBitChange : Obligations.ChecksumsDetectEverySingleBitChange :=
  ⟨singleBitDetect_crc 0xFFFFFFFF#32, singleBitDetect_crc 0x00000000#32⟩

end Sys2Proof.Machine
end

section
/-!
PROOFS. The host's side (40_operation.md R116, R118, 70_reset_and_hazards.md R250): RESET, START, and what its reads and
writes of the ports and buffers do in which phase.
-/

namespace Sys2Proof.Machine

/-! ### RESET and START -/

/-- Settles O1: the fields of the state after power-on. -/
theorem powerOnResetValues : Obligations.PowerOnResetValues :=
  ⟨rfl, rfl, rfl, rfl, rfl, readByte_nil, readByte_nil, rfl, rfl, rfl, rfl, readByte_nil, readByte_nil⟩

/-- RESET keeps the request side and the model's own fields, and nothing else (R250). -/
theorem resetBlock_eq (s : State) : resetBlock s =
    { State.reset with
      reqNs := s.reqNs, reqType := s.reqType, reqKlen := s.reqKlen, reqVkind := s.reqVkind, reqVnum := s.reqVnum
      reqVlen := s.reqVlen, written := s.written, mem := ⟨s.mem.key, s.mem.vbuf, [], []⟩
      pending := s.pending, readout := s.readout } := rfl

/-- Settles O2: the state after RESET is a function of the fields it keeps. -/
theorem resetMoveForgetsEverythingButTheRequestSide : Obligations.ResetMoveForgetsEverythingButTheRequestSide := by
  constructor
  · intro s
    exact ⟨resetBlock s, rfl, rfl, phaseOf_idle, rfl, rfl, readByte_nil, readByte_nil, rfl, rfl, rfl, rfl, rfl, rfl,
      rfl, rfl, rfl, rfl, rfl⟩
  · intro s s' t t' hns htype hklen hvkind hvnum hvlen hkey hvbuf hwritten hpending hreadout h h'
    cases h
    cases h'
    rw [resetBlock_eq s, resetBlock_eq s', hns, htype, hklen, hvkind, hvnum, hvlen, hkey, hvbuf, hwritten, hpending,
      hreadout]

/-- The fields of STATUS after START (10_state.md R33). -/
theorem statusFields_started :
    statusBusy statusStarted = true ∧ statusDone statusStarted = false ∧ statusErr statusStarted = 0#3 := by
  decide

/-- Settles O43: START outside BUSY is `startOperation`, and while BUSY it does nothing. -/
theorem startTakesTheRequest : Obligations.StartTakesTheRequest := by
  refine ⟨fun s hidle => ?_, fun _ => hostMove_start_of_busy⟩
  obtain ⟨hbusy, hdone, herr⟩ := statusFields_started
  exact ⟨startOperation s, hostMove_start_not_busy hidle, rfl, rfl, rfl, portNs_of_written, portType_of_written,
    portKlen_of_written, portVkind_of_written, portVnum_of_written, portVlen_of_written, hbusy, hdone, herr,
    phaseOf_started, readByte_nil, readByte_nil, rfl, rfl, rfl, rfl, rfl, rfl⟩

/-! ### Reads -/

theorem hostReadByte_of_some {m : Buffer} {size a : Nat} (noValue : Fault) (s : State) {v : Byte} (ha : a < size)
    (h : readByte m a = some v) : hostReadByte m size a noValue s = .next (hostSees (.byte v) s) := by
  simp [hostReadByte, ha, h]

theorem hostReadByte_of_none {m : Buffer} {size a : Nat} (noValue : Fault) (s : State) (ha : a < size)
    (h : readByte m a = none) : hostReadByte m size a noValue s = .fault noValue := by
  simp [hostReadByte, ha, h]

/-- A byte that answers does so in every state. -/
theorem hostReadByte_eq_next {m : Buffer} {size a : Nat} {noValue : Fault} {s t : State}
    (h : hostReadByte m size a noValue s = .next t) :
    ∃ v, t = hostSees (.byte v) s ∧ ∀ s', hostReadByte m size a noValue s' = .next (hostSees (.byte v) s') := by
  rcases hostReadByte_cases m size a noValue s with ⟨_, h'⟩ | ⟨_, _, h'⟩ | ⟨ha, v, hv, h'⟩ <;> cases h'.symm.trans h
  exact ⟨v, rfl, fun s' => hostReadByte_of_some noValue s' ha hv⟩

theorem hostMove_readSpan_of_some {s : State} {v : BitVec 8} (h : s.rspSpan = some v) :
    hostMove .readSpan s = .next (hostSees (.byte v) s) := by
  simp [hostMove, h]

theorem hostMove_readSpan_of_none {s : State} (h : s.rspSpan = none) :
    hostMove .readSpan s = .fault .responseHoldsNoValue := by
  simp [hostMove, h]

theorem hostMove_readDlen_of_some {s : State} {v : BitVec 16} (h : s.rspDlen = some v) :
    hostMove .readDlen s = .next (hostSees (.half v) s) := by
  simp [hostMove, h]

theorem hostMove_readDlen_of_none {s : State} (h : s.rspDlen = none) :
    hostMove .readDlen s = .fault .responseHoldsNoValue := by
  simp [hostMove, h]

/-- The reads among the host's moves, as the statements list them. -/
def IsHostRead (m : HostMove) : Prop :=
  m ∈ [.readNs, .readType, .readKlen, .readVkind, .readVnum, .readVlen, .readStatus, .readSpan, .readDlen] ∨
    ∃ a, m = .readKey a ∨ m = .readVbuf a ∨ m = .readHdr a ∨ m = .readData a

/-- Two states that show the host the same: the ports, STATUS, the buffers and the response ports. -/
structure ShowsSame (s s' : State) : Prop where
  request : requestOf s' = requestOf s
  status : s'.status = s.status
  mem : s'.mem = s.mem
  rspSpan : s'.rspSpan = s.rspSpan
  rspDlen : s'.rspDlen = s.rspDlen

/-- The move reads a value that the host is shown: it reaches `readout` alone (20_memory.md R57), and is the same in
every state that shows the same. -/
def ReadsShownValue (m : HostMove) (s t : State) : Prop :=
  ∃ v, t = hostSees v s ∧ ∀ s', ShowsSame s s' → hostMove m s' = .next (hostSees v s')

section
variable {m : HostMove} {s t : State} (h : hostMove m s = .next t)
include h

/-- A read of a port or of STATUS, which always has a value. -/
theorem readsShownValue_of_port (value : State → HostValue)
    (hm : ∀ s, hostMove m s = .next (hostSees (value s) s)) (hsame : ∀ s', ShowsSame s s' → value s' = value s) :
    ReadsShownValue m s t := by
  cases (hm s).symm.trans h
  exact ⟨value s, rfl, fun s' hs' => by rw [hm, hsame s' hs']⟩

/-- A read of a byte of a buffer. -/
theorem readsShownValue_of_buffer {size a : Nat} {noValue : Fault} (b : State → Buffer)
    (hm : ∀ s, hostMove m s = hostReadByte (b s) size a noValue s) (hsame : ∀ s', ShowsSame s s' → b s' = b s) :
    ReadsShownValue m s t := by
  rw [hm] at h
  obtain ⟨v, ht, hv⟩ := hostReadByte_eq_next h
  exact ⟨_, ht, fun s' hs' => by rw [hm, hsame s' hs', hv]⟩

/-- Every read that answers reads a value that the host is shown. -/
theorem readsShownValue_of_hostRead (hread : IsHostRead m) : ReadsShownValue m s t := by
  simp only [IsHostRead, List.mem_cons, List.not_mem_nil, or_false] at hread
  rcases hread with (rfl | rfl | rfl | rfl | rfl | rfl | rfl | rfl | rfl) | ⟨a, rfl | rfl | rfl | rfl⟩
  · exact readsShownValue_of_port h (fun s => .byte (requestOf s).ns) (fun _ => rfl) fun s' hs' => by rw [hs'.request]
  · exact readsShownValue_of_port h (fun s => .byte (requestOf s).type) (fun _ => rfl) fun s' hs' => by rw [hs'.request]
  · exact readsShownValue_of_port h (fun s => .byte (requestOf s).klen) (fun _ => rfl) fun s' hs' => by rw [hs'.request]
  · exact readsShownValue_of_port h (fun s => .bit (requestOf s).vkind) (fun _ => rfl) fun s' hs' => by rw [hs'.request]
  · exact readsShownValue_of_port h (fun s => .long (requestOf s).vnum) (fun _ => rfl) fun s' hs' => by rw [hs'.request]
  · exact readsShownValue_of_port h (fun s => .half (requestOf s).vlen) (fun _ => rfl) fun s' hs' => by rw [hs'.request]
  · exact readsShownValue_of_port h (fun s => .byte s.status) (fun _ => rfl) fun s' hs' => by rw [hs'.status]
  · cases hv : s.rspSpan with
    | none => cases (hostMove_readSpan_of_none hv).symm.trans h
    | some v =>
      cases (hostMove_readSpan_of_some hv).symm.trans h
      exact ⟨_, rfl, fun s' hs' => hostMove_readSpan_of_some (hs'.rspSpan.trans hv)⟩
  · cases hv : s.rspDlen with
    | none => cases (hostMove_readDlen_of_none hv).symm.trans h
    | some v =>
      cases (hostMove_readDlen_of_some hv).symm.trans h
      exact ⟨_, rfl, fun s' hs' => hostMove_readDlen_of_some (hs'.rspDlen.trans hv)⟩
  · exact readsShownValue_of_buffer h (fun s => s.mem.key) (fun _ => rfl) fun s' hs' => by rw [hs'.mem]
  · exact readsShownValue_of_buffer h (fun s => s.mem.vbuf) (fun _ => rfl) fun s' hs' => by rw [hs'.mem]
  · exact readsShownValue_of_buffer h (fun s => s.mem.hdr) (fun _ => rfl) fun s' hs' => by rw [hs'.mem]
  · exact readsShownValue_of_buffer h (fun s => s.mem.data) (fun _ => rfl) fun s' hs' => by rw [hs'.mem]

end

/-- Settles O47: a read leaves a state that shows the same, so it answers the same again. -/
theorem hostReadsHaveNoSideEffect : Obligations.HostReadsHaveNoSideEffect := by
  refine ⟨fun m s t hread h => ?_, fun s => ?_⟩
  · obtain ⟨v, rfl, hagain⟩ := readsShownValue_of_hostRead h hread
    exact ⟨rfl, hagain (hostSees v s) ⟨rfl, rfl, rfl, rfl, rfl⟩⟩
  · exact ⟨rfl, rfl, portNs_of_written, rfl, portType_of_written, rfl, portKlen_of_written, rfl, portVkind_of_written,
      rfl, portVnum_of_written, rfl, portVlen_of_written, fun a v => hostReadByte_of_some _ s,
      fun a v => hostReadByte_of_some _ s⟩

/-- The register of a port never written does not matter to what the port shows (log entry 9). -/
theorem portValue_ite {n : Nat} (written : Bool) (held other unwritten : BitVec n) :
    portValue written (if written then held else other) unwritten = portValue written held unwritten := by
  cases written <;> rfl

/-- Settles O45: the ports show the same in both states, and START and the reads see what the ports show. -/
theorem noUnwrittenPortReachesTheBlockOrTheHost : Obligations.NoUnwrittenPortReachesTheBlockOrTheHost := by
  intro s ns type klen vkind vnum vlen s'
  have hsame : ShowsSame s s' := by
    refine ⟨?_, rfl, rfl, rfl, rfl⟩
    simp only [requestOf, portNs, portType, portKlen, portVkind, portVnum, portVlen, s', portValue_ite]
  refine ⟨fun t hidle h => ?_, fun m t hread h => ?_⟩
  · cases (hostMove_start_not_busy hidle).symm.trans h
    exact ⟨startOperation s', hostMove_start_not_busy hidle, congrArg some hsame.request, rfl, rfl⟩
  · obtain ⟨v, rfl, hother⟩ := readsShownValue_of_hostRead h hread
    exact ⟨hostSees v s', hother s' hsame, rfl⟩

/-- Settles O46: without a response each read finds nothing, and with one each finds the entry's bytes. -/
theorem responseReadsFaultWithoutAValue : Obligations.ResponseReadsFaultWithoutAValue := by
  refine fun s h => ⟨fun hfailed => ?_, fun hsucceeded => ?_⟩
  · obtain ⟨hhdr, hdata, hspan, hdlen⟩ := no_response_of_not_succeeded h hfailed
    exact ⟨fun a ha => hostReadByte_of_none _ s ha (hhdr ▸ readByte_nil a),
      fun a ha => hostReadByte_of_none _ s ha (hdata ▸ readByte_nil a), hostMove_readSpan_of_none hspan,
      hostMove_readDlen_of_none hdlen⟩
  · obtain ⟨r, hdr, data, he, hhdr, hdata, hspan, hdlen⟩ := response_of_succeeded h hsucceeded
    obtain ⟨hlen, hmax⟩ := length_of_encodeEntry he
    have hread : ∀ a, readByte s.mem.hdr a = hdr[a]? := fun a => by rw [hhdr, readByte_bytesAt_zero]
    have hreadData : ∀ a, readByte s.mem.data a = data[a]? := fun a => by rw [hdata, readByte_bytesAt_zero]
    have hspan' : s.rspSpan = some hdr[2] := hspan.trans (List.getElem?_eq_getElem (by omega))
    refine ⟨fun a ha => ?_, ⟨hdr[2], hspan', ?_, hostMove_readSpan_of_some hspan'⟩, _, hdlen,
      hostMove_readDlen_of_some hdlen, fun a ha => ?_, fun a ha ha' => ?_⟩
    · have hv : readByte s.mem.hdr a = some hdr[a] := (hread a).trans (List.getElem?_eq_getElem (by omega))
      exact ⟨_, hv, hostReadByte_of_some _ s ha hv⟩
    · rw [hread, ← hspan, hspan']
    · rw [toNat_dlen_of_encodeEntry he] at ha
      have hv : readByte s.mem.data a = some data[a] := (hreadData a).trans (List.getElem?_eq_getElem ha)
      exact ⟨_, hv, hostReadByte_of_some _ s (Nat.lt_of_lt_of_le ha hmax) hv⟩
    · rw [toNat_dlen_of_encodeEntry he] at ha
      exact hostReadByte_of_none _ s ha' ((hreadData a).trans (List.getElem?_eq_none ha))

/-! ### Writes -/

section
variable {s : State} {a : Nat}

theorem hostWrite_of_busy (w : State) (h : phaseOf s.status = .busy) : hostWrite s w = .fault .hostWriteWhileBusy := by
  simp [hostWrite, h]

theorem hostWrite_of_not_busy (w : State) (h : phaseOf s.status ≠ .busy) : hostWrite s w = .next w :=
  ((hostWrite_cases s w).resolve_left fun ⟨hbusy, _⟩ => h hbusy).2

theorem hostMove_writeKey (v : Byte) (ha : a < 16) :
    hostMove (.writeKey a v) s = hostWrite s { s with mem := { s.mem with key := writeByte s.mem.key a v } } :=
  if_pos ha

theorem hostMove_writeVbuf (v : Byte) (ha : a < 3999) :
    hostMove (.writeVbuf a v) s = hostWrite s { s with mem := { s.mem with vbuf := writeByte s.mem.vbuf a v } } :=
  if_pos ha

end

/-- Settles O48: every write is a `hostWrite` of its one port or byte. -/
theorem hostWritesOutsideBusyOnly : Obligations.HostWritesOutsideBusyOnly := by
  refine fun s => ⟨fun hbusy => ?_, fun hidle => ?_⟩
  · have fault : ∀ w, hostWrite s w = .fault .hostWriteWhileBusy := fun w => hostWrite_of_busy w hbusy
    exact ⟨fun _ => fault _, fun _ => fault _, fun _ => fault _, fun _ => fault _, fun _ => fault _, fun _ => fault _,
      fun a v ha => (hostMove_writeKey v ha).trans (fault _), fun a v ha => (hostMove_writeVbuf v ha).trans (fault _)⟩
  · have write : ∀ w, hostWrite s w = .next w := fun w => hostWrite_of_not_busy w hidle
    refine ⟨fun v => ⟨_, write _, rfl, rfl⟩, fun v => ⟨_, write _, rfl, rfl⟩, fun v => ⟨_, write _, rfl, rfl⟩,
      fun v => ⟨_, write _, rfl, rfl⟩, fun v => ⟨_, write _, rfl, rfl⟩, fun v => ⟨_, write _, rfl, rfl⟩,
      fun a v ha => ?_, fun a v ha => ?_⟩
    · exact ⟨_, (hostMove_writeKey v ha).trans (write _), readByte_writeByte_same _ a v,
        fun _ => readByte_writeByte_other _ v, rfl, hostReadByte_of_some _ _ ha (readByte_writeByte_same _ a v)⟩
    · exact ⟨_, (hostMove_writeVbuf v ha).trans (write _), readByte_writeByte_same _ a v,
        fun _ => readByte_writeByte_other _ v, rfl, hostReadByte_of_some _ _ ha (readByte_writeByte_same _ a v)⟩

/-! ### What ends a response -/

/-- Only START and RESET touch STATUS and the response (10_state.md R34, 60_exceptions.md R231). -/
theorem hostMove_keeps_response {m : HostMove} {s t : State} (hstart : m ≠ .start) (hreset : m ≠ .reset)
    (h : hostMove m s = .next t) : t.status = s.status ∧ t.mem.hdr = s.mem.hdr ∧ t.mem.data = s.mem.data ∧
      t.rspSpan = s.rspSpan ∧ t.rspDlen = s.rspDlen := by
  rcases hostMove_cases h with ⟨_, hmem, hspan, hdlen, _, hstatus, _⟩ | ⟨_, a, v, _, _, rfl⟩ | ⟨_, a, v, _, _, rfl⟩ |
    ⟨v, rfl⟩ | ⟨hm, _⟩ | ⟨hm, _⟩ | ⟨hm, _⟩
  · exact ⟨hstatus, by rw [hmem], by rw [hmem], hspan, hdlen⟩
  · exact ⟨rfl, rfl, rfl, rfl, rfl⟩
  · exact ⟨rfl, rfl, rfl, rfl, rfl⟩
  · exact ⟨rfl, rfl, rfl, rfl, rfl⟩
  · exact absurd hm hstart
  · exact absurd hm hstart
  · exact absurd hm hreset

/-- Settles O49: in DONE the block idles, and no other move of the host touches the response. -/
theorem errorStaysUntilStartOrReset : Obligations.ErrorStaysUntilStartOrReset := by
  intro s t hdone hstart hreset h
  have hidle : phaseOf s.status ≠ .busy := by simp [hdone]
  rcases step_cases s with ⟨_, hstep⟩ | ⟨rest, _, hstep⟩ | ⟨m, rest, hp, hstep⟩ <;> rw [hstep] at h
  · cases (blockTurn_of_not_busy hidle).symm.trans h
    exact ⟨rfl, rfl, rfl, rfl, rfl⟩
  · cases (blockTurn_of_not_busy (s := { s with pending := rest }) hidle).symm.trans h
    exact ⟨rfl, rfl, rfl, rfl, rfl⟩
  · simp only [hp, List.head?_cons, ne_eq, Option.some.injEq, Turn.host.injEq] at hstart hreset
    exact hostMove_keeps_response (s := { s with pending := rest }) hstart hreset h

end Sys2Proof.Machine
end

section
/-!
PROOFS. The textual lines (30_encoding.md R94): the turns of a line, run one after another, write the ports and buffers,
start the operation and end it.
-/

namespace Sys2Proof.Machine

/-! ### Runs of turns -/

theorem runSteps_succ {s t : State} (n : Nat) (h : step s = .next t) : runSteps (n + 1) s = runSteps n t := by
  simp [runSteps, h]

theorem runSteps_add {m : Nat} (n : Nat) {s t : State} (h : runSteps m s = .next t) :
    runSteps (m + n) s = runSteps n t := by
  induction m generalizing s with
  | zero =>
    cases h
    rw [Nat.zero_add]
  | succ m ih =>
    cases hstep : step s with
    | next u =>
      rw [runSteps_succ m hstep] at h
      rw [Nat.succ_add, runSteps_succ _ hstep, ih h]
    | fault f => simp [runSteps, hstep] at h
    | refused f => simp [runSteps, hstep] at h

/-- A run keeps the invariant, as each of its steps does. -/
theorem inv_runSteps {n : Nat} {s t : State} (hinv : Inv s) (h : runSteps n s = .next t) : Inv t := by
  induction n generalizing s with
  | zero =>
    cases h
    exact hinv
  | succ n ih =>
    cases hstep : step s with
    | next u =>
      rw [runSteps_succ n hstep] at h
      exact ih (everyStepKeepsTheInvariant s u hinv hstep) h
    | fault f => simp [runSteps, hstep] at h
    | refused f => simp [runSteps, hstep] at h

/-- Taking the turns leads from `s` to `t`, whatever turns come after them. -/
def TurnsLead (turns : List Turn) (s t : State) : Prop :=
  ∀ rest, runSteps turns.length { s with pending := turns ++ rest } = .next { t with pending := rest }

theorem turnsLead_nil (s : State) : TurnsLead [] s s := fun _ => rfl

theorem TurnsLead.append {xs ys : List Turn} {s t u : State} (hx : TurnsLead xs s t) (hy : TurnsLead ys t u) :
    TurnsLead (xs ++ ys) s u := by
  intro rest
  rw [List.length_append, List.append_assoc, runSteps_add _ (hx (ys ++ rest))]
  exact hy rest

/-- One host's turn, for a move that does not look at the turns to come. -/
theorem turnsLead_host {m : HostMove} {s t : State}
    (h : ∀ rest, hostMove m { s with pending := rest } = .next { t with pending := rest }) :
    TurnsLead [.host m] s t := by
  intro rest
  exact runSteps_succ 0 ((step_of_pending_host rfl).trans (h rest))

/-- One write of the request side outside BUSY. -/
theorem turnsLead_hostWrite {m : HostMove} {s w : State} (hidle : phaseOf s.status ≠ .busy)
    (h : ∀ rest, hostMove m { s with pending := rest } =
      hostWrite { s with pending := rest } { w with pending := rest }) :
    TurnsLead [.host m] s w :=
  turnsLead_host fun rest => (h rest).trans (hostWrite_of_not_busy (s := { s with pending := rest }) _ hidle)

theorem turnsLead_block {s t : State}
    (h : ∀ rest, blockTurn { s with pending := rest } = .next { t with pending := rest }) : TurnsLead [.block] s t := by
  intro rest
  exact runSteps_succ 0 ((step_of_pending_block rfl).trans (h rest))

/-- The turns pending in a state are taken one after another, until none is left. -/
theorem runSteps_of_turnsLead {turns : List Turn} {s t : State} (h : TurnsLead turns s t) (hp : s.pending = turns) :
    runSteps turns.length s = .next { t with pending := [] } := by
  subst hp
  have hrun := h []
  rw [List.append_nil] at hrun
  exact hrun

/-! ### The writes of a line -/

/-- Writes consecutive bytes from offset `a`. -/
def writeBytes (m : Buffer) : Nat → List Byte → Buffer
  | _, [] => m
  | a, v :: vs => writeBytes (writeByte m a v) (a + 1) vs

theorem readByte_writeBytes_below {b : Nat} : ∀ (bytes : List Byte) (m : Buffer) (a : Nat), b < a →
    readByte (writeBytes m a bytes) b = readByte m b
  | [], _, _, _ => rfl
  | v :: vs, m, a, h => by
    rw [writeBytes, readByte_writeBytes_below vs _ _ (by omega), readByte_writeByte_other m v (by omega)]

theorem readByte_writeBytes : ∀ (bytes : List Byte) (m : Buffer) (a j : Nat), j < bytes.length →
    readByte (writeBytes m a bytes) (a + j) = bytes[j]?
  | v :: vs, m, a, 0, _ => by
    show readByte (writeBytes m a (v :: vs)) a = some v
    rw [writeBytes, readByte_writeBytes_below vs _ _ (Nat.lt_succ_self a), readByte_writeByte_same]
  | v :: vs, m, a, j + 1, h => by
    rw [writeBytes, Nat.add_comm j 1, ← Nat.add_assoc,
      readByte_writeBytes vs _ (a + 1) j (Nat.lt_of_succ_lt_succ h), Nat.add_comm 1 j, List.getElem?_cons_succ]

/-- As many bytes as a buffer of `size` has room for are read back. -/
theorem readByte_writeBytes_take (bytes : List Byte) (m : Buffer) {size j : Nat} (hj : j < bytes.length)
    (hsize : j < size) : readByte (writeBytes m 0 (bytes.take size)) j = bytes[j]? := by
  have hread := readByte_writeBytes (bytes.take size) m 0 j (by rw [List.length_take]; omega)
  rwa [Nat.zero_add, List.getElem?_take_of_lt hsize] at hread

/-- The state in which the host has written namespace, type byte and key length. -/
def writePorts (ns code klen : BitVec 8) (s : State) : State :=
  { s with
    reqNs := ns, reqType := code, reqKlen := klen
    written := { s.written with ns := true, type := true, klen := true } }

/-- The state in which the host has written these bytes to KEY from offset `a`. -/
def writeKeyFrom (a : Nat) (bytes : List Byte) (s : State) : State :=
  { s with mem := { s.mem with key := writeBytes s.mem.key a bytes } }

/-- The state in which the host has written these bytes to VBUF from offset `a`. -/
def writeVbufFrom (a : Nat) (bytes : List Byte) (s : State) : State :=
  { s with mem := { s.mem with vbuf := writeBytes s.mem.vbuf a bytes } }

/-- The state in which the host has written a line's value (R94). -/
def writeLineValue : LineValue → State → State
  | .num v, s => { s with
      reqVkind := 0#1, reqVnum := BitVec.ofInt 64 v, written := { s.written with vkind := true, vnum := true } }
  | .text bytes, s => writeVbufFrom 0 (bytes.take vbufSize) { s with
      reqVkind := 1#1, reqVlen := BitVec.ofNat 16 bytes.length
      written := { s.written with vkind := true, vlen := true } }

/-- The state in which the host has written a line's Request. -/
def writeLine (code : Byte) (ns : Nat) (key : List Byte) (value : LineValue) (s : State) : State :=
  writeLineValue value (writeKeyFrom 0 (key.take keyFieldSize)
    (writePorts (BitVec.ofNat 8 ns) code (BitVec.ofNat 8 key.length) s))

/-- The ports and buffers then show what the line says. -/
theorem lineWritten_writeLine (code : Byte) (ns : Nat) (key : List Byte) (value : LineValue) (s : State) :
    LineWritten code ns key value (writeLine code ns key value s) := by
  cases value with
  | num v => exact ⟨rfl, rfl, rfl, fun j => readByte_writeBytes_take key s.mem.key, rfl, rfl⟩
  | text bytes =>
    exact ⟨rfl, rfl, rfl, fun j => readByte_writeBytes_take key s.mem.key, rfl, rfl,
      fun j => readByte_writeBytes_take bytes s.mem.vbuf⟩

section
variable {s : State}

theorem turnsLead_keyWrites : ∀ (bytes : List Byte) (a : Nat) (s : State), phaseOf s.status ≠ .busy →
    a + bytes.length ≤ 16 → TurnsLead (keyWrites a bytes) s (writeKeyFrom a bytes s)
  | [], _, s, _, _ => turnsLead_nil s
  | v :: vs, a, s, hidle, hlen => by
    rw [List.length_cons] at hlen
    have hfirst : TurnsLead [.host (.writeKey a v)] s
        { s with mem := { s.mem with key := writeByte s.mem.key a v } } :=
      turnsLead_hostWrite hidle fun _ => hostMove_writeKey v (by omega)
    exact hfirst.append (turnsLead_keyWrites vs (a + 1) _ hidle (by omega))

theorem turnsLead_textWrites : ∀ (bytes : List Byte) (a : Nat) (s : State), phaseOf s.status ≠ .busy →
    a + bytes.length ≤ 3999 → TurnsLead (textWrites a bytes) s (writeVbufFrom a bytes s)
  | [], _, s, _, _ => turnsLead_nil s
  | v :: vs, a, s, hidle, hlen => by
    rw [List.length_cons] at hlen
    have hfirst : TurnsLead [.host (.writeVbuf a v)] s
        { s with mem := { s.mem with vbuf := writeByte s.mem.vbuf a v } } :=
      turnsLead_hostWrite hidle fun _ => hostMove_writeVbuf v (by omega)
    exact hfirst.append (turnsLead_textWrites vs (a + 1) _ hidle (by omega))

/-- The room of a buffer bounds the bytes written to it. -/
theorem zero_add_length_take_le (bytes : List Byte) (size : Nat) : 0 + (bytes.take size).length ≤ size := by
  rw [Nat.zero_add]
  exact List.length_take_le size bytes

section
variable (hidle : phaseOf s.status ≠ .busy)
include hidle

theorem turnsLead_portWrites (ns code klen : BitVec 8) :
    TurnsLead [.host (.writeNs ns), .host (.writeType code), .host (.writeKlen klen)] s
      (writePorts ns code klen s) := by
  have hns : TurnsLead [.host (.writeNs ns)] s { s with reqNs := ns, written := { s.written with ns := true } } :=
    turnsLead_hostWrite hidle fun _ => rfl
  have htype : TurnsLead [.host (.writeType code)] { s with reqNs := ns, written := { s.written with ns := true } }
      { s with reqNs := ns, reqType := code, written := { s.written with ns := true, type := true } } :=
    turnsLead_hostWrite hidle fun _ => rfl
  have hklen : TurnsLead [.host (.writeKlen klen)]
      { s with reqNs := ns, reqType := code, written := { s.written with ns := true, type := true } }
      (writePorts ns code klen s) :=
    turnsLead_hostWrite hidle fun _ => rfl
  exact (hns.append htype).append hklen

theorem turnsLead_valueWrites (value : LineValue) : TurnsLead value.turns s (writeLineValue value s) := by
  have hkind : ∀ k, TurnsLead [.host (.writeVkind k)] s
      { s with reqVkind := k, written := { s.written with vkind := true } } :=
    fun k => turnsLead_hostWrite hidle fun _ => rfl
  cases value with
  | num v =>
    have hnumber : TurnsLead [.host (.writeVnum (BitVec.ofInt 64 v))]
        { s with reqVkind := 0#1, written := { s.written with vkind := true } } (writeLineValue (.num v) s) :=
      turnsLead_hostWrite hidle fun _ => rfl
    exact (hkind 0#1).append hnumber
  | text bytes =>
    have hlength : TurnsLead [.host (.writeVlen (BitVec.ofNat 16 bytes.length))]
        { s with reqVkind := 1#1, written := { s.written with vkind := true } }
        { s with
          reqVkind := 1#1, reqVlen := BitVec.ofNat 16 bytes.length
          written := { s.written with vkind := true, vlen := true } } :=
      turnsLead_hostWrite hidle fun _ => rfl
    exact ((hkind 1#1).append hlength).append
      (turnsLead_textWrites _ 0 _ hidle (zero_add_length_take_le bytes vbufSize))

/-- START outside BUSY. -/
theorem turnsLead_start : TurnsLead [.host .start] s (startOperation s) :=
  turnsLead_host fun rest => hostMove_start_not_busy (s := { s with pending := rest }) hidle

end

@[simp] theorem writeLine_status (code : Byte) (ns : Nat) (key : List Byte) (value : LineValue) (s : State) :
    (writeLine code ns key value s).status = s.status := by
  cases value <;> rfl

/-- The writes of a line and its START, from any state that is not BUSY. -/
theorem turnsLead_operationTurns {t : State} (code : Byte) (ns : Nat) (key : List Byte) (value : LineValue)
    (hidle : phaseOf s.status ≠ .busy)
    (hblock : TurnsLead [.block] (startOperation (writeLine code ns key value s)) t) :
    TurnsLead (operationTurns code ns key value) s t := by
  have hports := turnsLead_portWrites hidle (BitVec.ofNat 8 ns) code (BitVec.ofNat 8 key.length)
  have hkey := turnsLead_keyWrites (key.take keyFieldSize) 0
    (writePorts (BitVec.ofNat 8 ns) code (BitVec.ofNat 8 key.length) s) hidle (zero_add_length_take_le key keyFieldSize)
  have hvalue := turnsLead_valueWrites (s := writeKeyFrom 0 (key.take keyFieldSize)
    (writePorts (BitVec.ofNat 8 ns) code (BitVec.ofNat 8 key.length) s)) hidle value
  have hstart := turnsLead_start (s := writeLine code ns key value s) (by simpa using hidle)
  exact ((hports.append hkey).append hvalue).append (hstart.append hblock)

/-! ### The operation of a line -/

/-- A line writes every byte that the operation it starts reads: an accepted key or text fits its buffer. -/
theorem bytesHeld_of_lineWritten {c : Config} {code : Byte} {ns : Nat} {key : List Byte} {value : LineValue}
    (h : LineWritten code ns key value s) (hkey : key.length < 2 ^ 8) (hvalue : value.wellFormed = true) :
    bytesHeld c (requestOf s) = true := by
  obtain ⟨_, _, hklen, hkeyRead, hval⟩ := h
  have hk : (requestOf s).klen.toNat = key.length :=
    (congrArg BitVec.toNat hklen).trans ((BitVec.toNat_ofNat ..).trans (Nat.mod_eq_of_lt hkey))
  refine bytesHeld_of_operandsHeld fun i _ hv => operandsHeld_of_bytes (fun j hj => ?_) fun hi j hj => ?_
  · have hshort := klen_le_of_valid hv
    have hread : readByte (requestOf s).key j = key[j]? := hkeyRead j (by omega) (by omega)
    simpa [hread] using (show j < key.length by omega)
  · obtain ⟨hkind, hvl⟩ := ((validateFor_eq_none_iff i _).mp hv).2.2 (width_eq_none_iff.mpr hi)
    cases value with
    | num v =>
      have hnumber : (requestOf s).vkind = 0#1 := hval.1
      simp [hnumber] at hkind
    | text bytes =>
      obtain ⟨_, hvlen, htextRead⟩ := hval
      have hfits : bytes.length < 2 ^ 16 := by simpa [LineValue.wellFormed] using hvalue
      have hl : (requestOf s).vlen.toNat = bytes.length :=
        (congrArg BitVec.toNat hvlen).trans ((BitVec.toNat_ofNat ..).trans (Nat.mod_eq_of_lt hfits))
      have hread : readByte (requestOf s).vbuf j = bytes[j]? := htextRead j (by omega) (by omega)
      simpa [hread] using (show j < bytes.length by omega)

section
variable {code : Byte} {ns : Nat} {key : List Byte} {value : LineValue} (h : LineWritten code ns key value s)
include h

/-- An entry ends a line as R94 says: the ports still show the line. -/
theorem lineResult_afterEntry {hdr data : List Byte} (span : Byte) (calls : List (List Byte))
    (he : encodeEntry Config.hardware (requestOf s) = .ok hdr data) :
    LineResult code ns key value (afterEntry (startOperation s) hdr data span calls) := by
  have he' : encodeEntry Config.hardware (requestOf (afterEntry (startOperation s) hdr data span calls)) =
      .ok hdr data := he
  refine ⟨phaseOf_succeeded, h, ?_⟩
  rw [he']
  exact ⟨statusErr_ended 0#3, rfl, rfl⟩

/-- So does an error. -/
theorem lineResult_afterError {e : ValidationError} (he : encodeEntry Config.hardware (requestOf s) = .err e) :
    LineResult code ns key value (afterError (startOperation s) (statusEnded (errorCode e))) := by
  have he' : encodeEntry Config.hardware (requestOf (afterError (startOperation s) (statusEnded (errorCode e)))) =
      .err e := he
  refine ⟨phaseOf_error e, h, ?_⟩
  rw [he']
  exact statusErr_ended _

/-- From the state after START the block's turn ends the line's operation. -/
theorem exists_turnsLead_block (hvalue : encodeEntry Config.hardware (requestOf s) ≠ .noValue) :
    ∃ t, TurnsLead [.block] (startOperation s) t ∧ LineResult code ns key value t := by
  cases he : encodeEntry Config.hardware (requestOf s) with
  | ok hdr data =>
    obtain ⟨span, hspan⟩ := exists_span_of_encodeEntry he
    exact ⟨_, turnsLead_block fun rest => blockTurn_of_encodeEntry_ok (s := { startOperation s with pending := rest })
      phaseOf_started rfl he hspan, lineResult_afterEntry h span _ he⟩
  | err e =>
    exact ⟨_, turnsLead_block fun rest => blockTurn_of_encodeEntry_err (s := { startOperation s with pending := rest })
      phaseOf_started rfl he, lineResult_afterError h he⟩
  | noValue => exact absurd he hvalue

end

/-- The turns of an operation's line, from any state of the invariant that is not BUSY. -/
theorem operationTurns_run {code : Byte} {ns : Nat} {key : List Byte} {value : LineValue} (hkey : key.length < 2 ^ 8)
    (hvalue : value.wellFormed = true) (hinv : Inv s) (hidle : phaseOf s.status ≠ .busy)
    (hp : s.pending = operationTurns code ns key value) :
    ∃ t, runSteps (operationTurns code ns key value).length s = .next t ∧ t.pending = [] ∧ Inv t ∧
      LineResult code ns key value t := by
  have hwritten := lineWritten_writeLine code ns key value s
  have hheld : bytesHeld Config.hardware (requestOf (writeLine code ns key value s)) = true :=
    bytesHeld_of_lineWritten hwritten hkey hvalue
  obtain ⟨t, hblock, hresult⟩ := exists_turnsLead_block hwritten (encodeEntry_ne_noValue_of_bytesHeld hheld)
  have hrun := runSteps_of_turnsLead (turnsLead_operationTurns code ns key value hidle hblock) hp
  exact ⟨_, hrun, rfl, inv_runSteps hinv hrun, hresult⟩

end

/-- Settles O50: RESET is one turn; every other line writes its Request, starts it and waits for the block. -/
theorem oneLineRunsToDone : Obligations.OneLineRunsToDone := by
  intro l s hwf hinv hidle hp
  cases l with
  | enc i ns key value =>
    simp only [Line.wellFormed, Bool.and_eq_true, decide_eq_true_eq] at hwf
    obtain ⟨⟨_, hkey⟩, hvalue⟩ := hwf
    exact operationTurns_run hkey hvalue hinv hidle hp
  | raw code ns key value =>
    simp only [Line.wellFormed, Bool.and_eq_true, decide_eq_true_eq] at hwf
    obtain ⟨⟨_, hkey⟩, hvalue⟩ := hwf
    exact operationTurns_run hkey hvalue hinv hidle hp
  | reset =>
    have hlead : TurnsLead [.host .reset] s (resetBlock s) := turnsLead_host fun _ => rfl
    have hrun := runSteps_of_turnsLead hlead hp
    exact ⟨_, hrun, rfl, inv_runSteps hinv hrun, phaseOf_idle⟩

end Sys2Proof.Machine
end
